-- ==== Sys2Proof/Word.lean ====
section
/-! DEFINITION. The widths of the CHIP-8 core: bytes, 16-bit words, and the fields of an instruction word
(00_scope.md R4, R5; 30_encoding.md R91). Every number is unsigned (R6). -/

namespace Sys2Proof

/-- A memory cell, a general register, a timer or an 8-bit immediate NN. -/
abbrev Byte := BitVec 8

/-- An instruction word, `pc`, `I` or a stack entry: 16 bits. -/
abbrev Word := BitVec 16

/-- A 4-bit field of the instruction word (C, X, Y or N of R91). -/
abbrev Nibble := BitVec 4

/-- The 12-bit address field NNN of R91. -/
abbrev Addr := BitVec 12

/-- A register index 0x0 to 0xF; every value names a register (R21, R105). Key indices have the same
range (R28). -/
abbrev Reg := Fin 16

/-- The index of VF, the flag register (R22). -/
abbrev vf : Reg := 15

end Sys2Proof
end

