-- ==== Sys2Proof/Config.lean ====
section
/-! DEFINITION. The parameters of 00_scope.md R4: the fixed ones as constants, the OPEN ones as the structure
`Params` with the spec's defaults, and the free random byte of CXNN. -/

namespace Sys2Proof

/-- MEM_SIZE: addresses 0x000 to 0xFFF (R4, R60). -/
@[simp] abbrev Config.memSize : Nat := 0x1000

/-- ENTRY: where programs are loaded and where `pc` starts (R4, R61). -/
@[simp] abbrev Config.entry : Nat := 0x200

/-- FONT_BASE: the address of glyph 0 (R4, R61). -/
@[simp] abbrev Config.fontBase : Nat := 0x050

/-- FONT_GLYPH_BYTES: bytes of one glyph (R4, R62). -/
@[simp] abbrev Config.glyphBytes : Nat := 5

/-- FB_COLS (R4, R27). -/
@[simp] abbrev Config.fbCols : Nat := 64

/-- FB_ROWS (R4, R27). -/
@[simp] abbrev Config.fbRows : Nat := 32

/-- The 80 bytes of FONT as 16 glyphs of 5 bytes, first byte the top row (R62). -/
abbrev Config.Font := Vector (Vector Byte 5) 16

/-- The OPEN parameters of R4: "arguments of the model with the default shown". A machine carries them
unchanged (log 2, log 3). -/
structure Config.Params where
  /-- STACK_DEPTH: how many return addresses the call stack can hold (R4, R25). -/
  stackDepth : Nat
  /-- FONT: the glyphs reset copies to the font region (R62). -/
  font : Config.Font
deriving DecidableEq, Repr

/-- The one glyph the spec fixes, the digit A (R62, 95_test_vectors.md S7). -/
def Config.glyphA : Vector Byte 5 := #v[0xF0, 0x90, 0xF0, 0x90, 0x90]

/-- What R4 and R62 ask of the parameters: STACK_DEPTH at least 1 and glyph A as the source gives it. -/
def Config.Params.valid (p : Config.Params) : Bool :=
  decide (1 ≤ p.stackDepth) && decide (p.font[0xA] = Config.glyphA)

/-- Glyphs 0 to 7 of the default table of R62. PRESUMED: the spec marks them as general knowledge (log 3). -/
def Config.glyphs0to7 : Vector (Vector Byte 5) 8 :=
  #v[#v[0xF0, 0x90, 0x90, 0x90, 0xF0], #v[0x20, 0x60, 0x20, 0x20, 0x70],
     #v[0xF0, 0x10, 0xF0, 0x80, 0xF0], #v[0xF0, 0x10, 0xF0, 0x10, 0xF0],
     #v[0x90, 0x90, 0xF0, 0x10, 0x10], #v[0xF0, 0x80, 0xF0, 0x10, 0xF0],
     #v[0xF0, 0x80, 0xF0, 0x90, 0xF0], #v[0xF0, 0x10, 0x20, 0x40, 0x40]]

/-- Glyphs 8 to F of the default table of R62. Glyph A is the spec's; the others are PRESUMED (log 3). -/
def Config.glyphs8toF : Vector (Vector Byte 5) 8 :=
  #v[#v[0xF0, 0x90, 0xF0, 0x90, 0xF0], #v[0xF0, 0x90, 0xF0, 0x10, 0xF0],
     Config.glyphA,                    #v[0xE0, 0x90, 0xE0, 0x90, 0xE0],
     #v[0xF0, 0x80, 0x80, 0x80, 0xF0], #v[0xE0, 0x90, 0x90, 0x90, 0xE0],
     #v[0xF0, 0x80, 0xF0, 0x80, 0xF0], #v[0xF0, 0x80, 0xF0, 0x80, 0x80]]

/-- The defaults of R4: STACK_DEPTH 16 (PRESUMED, G2, log 2) and the default FONT (PRESUMED but for glyph A,
G1, log 3). -/
def Config.default : Config.Params where
  stackDepth := 16
  font := Config.glyphs0to7 ++ Config.glyphs8toF

/-- The random byte the host supplies for the `n`-th CXNN (R33, R171, D13): a FREE VALUE. It has no body, so
nothing can be proved of it and a claim holds for every byte (log 1). -/
opaque Config.rnd : Nat → Byte

end Sys2Proof
end

