-- ==== Sys2Proof/Syntax.lean ====
section
/-! DEFINITION. The instructions: one constructor per row of spec/opcode_table.json, named by the row's
mnemonic in lower case, with the row's operand fields (30_encoding.md R93, R94). Words that no row selects are
the no-op of R100; that no-op is no row and no constructor (log 6). -/

namespace Sys2Proof

/-- The 34 instructions. Fields a row carries and the executor ignores are kept (the low nibble of 5XY_ and
9XY_, Y of 8XY6 and 8XYE; R96, R105), so that no bit of a word is dropped (log 8). -/
inductive Instr where
  | cls
  | ret
  | jp (nnn : Addr)
  | call (nnn : Addr)
  | sei (x : Reg) (nn : Byte)
  | snei (x : Reg) (nn : Byte)
  | ser (x y : Reg) (ignored : Nibble)
  | ldi (x : Reg) (nn : Byte)
  | addi (x : Reg) (nn : Byte)
  | mov (x y : Reg)
  | or (x y : Reg)
  | and (x y : Reg)
  | xor (x y : Reg)
  | add (x y : Reg)
  | sub (x y : Reg)
  | shr (x y : Reg)
  | subn (x y : Reg)
  | shl (x y : Reg)
  | sner (x y : Reg) (ignored : Nibble)
  | ldx (nnn : Addr)
  /-- BXNN has two overlapping fields, X and NNN, X being the top nibble of NNN (R93, R105). -/
  | jpx (x : Reg) (nnn : Addr)
  | rnd (x : Reg) (nn : Byte)
  | drw (x y : Reg) (n : Nibble)
  | skp (x : Reg)
  | sknp (x : Reg)
  | gdt (x : Reg)
  | wkey (x : Reg)
  | sdt (x : Reg)
  | sst (x : Reg)
  | addx (x : Reg)
  | font (x : Reg)
  | bcd (x : Reg)
  | stm (x : Reg)
  | ldm (x : Reg)
deriving DecidableEq, Repr

end Sys2Proof
end

