-- ==== Sys2Proof/WellFormed.lean ====
section
/-! DEFINITION. Which terms of `Instr` stand for an instruction word. The operand types carry every range
check (R92, R105); the one relation between two fields of a row is checked here (log 7). -/

namespace Sys2Proof

/-- The top nibble of a 12-bit address as a register index: X = NNN[11:8] (30_encoding.md R105). -/
def Instr.topNibble (nnn : Addr) : Reg := (nnn.extractLsb' 8 4).toFin

/-- BXNN's X is the top nibble of its NNN (R93, R105, R143). Every other term is well formed: each value of
each field is legal (R92, R105). -/
def Instr.wellFormed : Instr → Bool
  | .jpx x nnn => decide (x = Instr.topNibble nnn)
  | .cls | .ret => true
  | .jp _ | .call _ | .ldx _ => true
  | .sei _ _ | .snei _ _ | .ldi _ _ | .addi _ _ | .rnd _ _ => true
  | .ser _ _ _ | .sner _ _ _ | .drw _ _ _ => true
  | .mov _ _ | .or _ _ | .and _ _ | .xor _ _ => true
  | .add _ _ | .sub _ _ | .shr _ _ | .subn _ _ | .shl _ _ => true
  | .skp _ | .sknp _ | .gdt _ | .wkey _ | .sdt _ | .sst _ => true
  | .addx _ | .font _ | .bcd _ | .stm _ | .ldm _ => true

end Sys2Proof
end

