-- ==== Sys2Proof/Decode.lean ====
section
/-! DEFINITION. The InstructionDecoder (30_encoding.md): the fields of a word (R91), the two-level dispatch
(R94 to R99), total on every word (R101), and the encoder written from the same table (R93). -/

namespace Sys2Proof

/-- C, the opcode class `w[15:12]` (R91). -/
def opClass (w : Word) : Nibble := w.extractLsb' 12 4

/-- X, `w[11:8]`, as a register index (R91, R105). -/
def fieldX (w : Word) : Reg := (w.extractLsb' 8 4).toFin

/-- Y, `w[7:4]`, as a register index (R91, R105). -/
def fieldY (w : Word) : Reg := (w.extractLsb' 4 4).toFin

/-- N, `w[3:0]` (R91). -/
def fieldN (w : Word) : Nibble := w.extractLsb' 0 4

/-- NN, `w[7:0]` (R91). -/
def fieldNN (w : Word) : Byte := w.extractLsb' 0 8

/-- NNN, `w[11:0]` (R91). -/
def fieldNNN (w : Word) : Addr := w.extractLsb' 0 12

/-- Why a word selects none of the 34 instructions: the families that hold undefined words (R100). Each is
the no-op, never an error of the core. -/
inductive Undefined where
  /-- Family 0x0, not 0x00E0 or 0x00EE (R95). -/
  | family0
  /-- Family 0x8, secondary nibble 8 to D or F (R97). -/
  | family8
  /-- Family 0xE, low byte not 0x9E or 0xA1 (R98). -/
  | familyE
  /-- Family 0xF, low byte not one of the nine of R99. -/
  | familyF
deriving DecidableEq, Repr

/-- Family 0x0: a full-word match (R95, log 16). -/
def decodeFamily0 (w : Word) : Except Undefined Instr :=
  match w with
  | 0x00E0#16 => .ok .cls
  | 0x00EE#16 => .ok .ret
  | _ => .error .family0

/-- Family 0x8: the secondary nibble N (R97). -/
def decodeFamily8 (w : Word) : Except Undefined Instr :=
  match fieldN w with
  | 0x0#4 => .ok (.mov (fieldX w) (fieldY w))
  | 0x1#4 => .ok (.or (fieldX w) (fieldY w))
  | 0x2#4 => .ok (.and (fieldX w) (fieldY w))
  | 0x3#4 => .ok (.xor (fieldX w) (fieldY w))
  | 0x4#4 => .ok (.add (fieldX w) (fieldY w))
  | 0x5#4 => .ok (.sub (fieldX w) (fieldY w))
  | 0x6#4 => .ok (.shr (fieldX w) (fieldY w))
  | 0x7#4 => .ok (.subn (fieldX w) (fieldY w))
  | 0xE#4 => .ok (.shl (fieldX w) (fieldY w))
  | _ => .error .family8

/-- Family 0xE: the secondary byte NN (R98). -/
def decodeFamilyE (w : Word) : Except Undefined Instr :=
  match fieldNN w with
  | 0x9E#8 => .ok (.skp (fieldX w))
  | 0xA1#8 => .ok (.sknp (fieldX w))
  | _ => .error .familyE

/-- Family 0xF: the secondary byte NN (R99). -/
def decodeFamilyF (w : Word) : Except Undefined Instr :=
  match fieldNN w with
  | 0x07#8 => .ok (.gdt (fieldX w))
  | 0x0A#8 => .ok (.wkey (fieldX w))
  | 0x15#8 => .ok (.sdt (fieldX w))
  | 0x18#8 => .ok (.sst (fieldX w))
  | 0x1E#8 => .ok (.addx (fieldX w))
  | 0x29#8 => .ok (.font (fieldX w))
  | 0x33#8 => .ok (.bcd (fieldX w))
  | 0x55#8 => .ok (.stm (fieldX w))
  | 0x65#8 => .ok (.ldm (fieldX w))
  | _ => .error .familyF

/-- The decoder, total on all 65536 words (R101): first on the class C, then, in families 0x0, 0x8, 0xE and
0xF, on the secondary field (R94). The last arm is class 0xF, the one class left. -/
def decode (w : Word) : Except Undefined Instr :=
  match opClass w with
  | 0x0#4 => decodeFamily0 w
  | 0x1#4 => .ok (.jp (fieldNNN w))
  | 0x2#4 => .ok (.call (fieldNNN w))
  | 0x3#4 => .ok (.sei (fieldX w) (fieldNN w))
  | 0x4#4 => .ok (.snei (fieldX w) (fieldNN w))
  | 0x5#4 => .ok (.ser (fieldX w) (fieldY w) (fieldN w))
  | 0x6#4 => .ok (.ldi (fieldX w) (fieldNN w))
  | 0x7#4 => .ok (.addi (fieldX w) (fieldNN w))
  | 0x8#4 => decodeFamily8 w
  | 0x9#4 => .ok (.sner (fieldX w) (fieldY w) (fieldN w))
  | 0xA#4 => .ok (.ldx (fieldNNN w))
  | 0xB#4 => .ok (.jpx (fieldX w) (fieldNNN w))
  | 0xC#4 => .ok (.rnd (fieldX w) (fieldNN w))
  | 0xD#4 => .ok (.drw (fieldX w) (fieldY w) (fieldN w))
  | 0xE#4 => decodeFamilyE w
  | _ => decodeFamilyF w

/-- The word of two bytes as the fetch assembles it, big-endian: `{hi, lo}` (20_memory.md R63). -/
def wordOfBytes (hi lo : Byte) : Word := hi ++ lo

/-- The byte at the lower address, `w[15:8]` (R63). -/
def highByte (w : Word) : Byte := w.extractLsb' 8 8

/-- The byte at the higher address, `w[7:0]` (R63). -/
def lowByte (w : Word) : Byte := w.extractLsb' 0 8

/-- The bits of a register index, for the encoder. -/
def regBits (x : Reg) : Nibble := BitVec.ofFin x

/-- Formats ADDR and XADDR: `cccc nnnn nnnn nnnn` (R93). -/
def formAddr (c : Nibble) (nnn : Addr) : Word := c ++ nnn

/-- Formats REG_IMM and REG_OP: `cccc xxxx kkkk kkkk` (R93). -/
def formRegByte (c : Nibble) (x : Reg) (nn : Byte) : Word := c ++ (regBits x ++ nn)

/-- Format REG_REG: `cccc xxxx yyyy nnnn` (R93). -/
def formRegReg (c : Nibble) (x y : Reg) (n : Nibble) : Word := c ++ (regBits x ++ (regBits y ++ n))

/-- The encoder: the word of each instruction from the opcode map (R93, R94). The X of BXNN is the top nibble
of its NNN and is not encoded a second time. -/
def encode : Instr → Word
  | .cls => 0x00E0
  | .ret => 0x00EE
  | .jp nnn => formAddr 0x1 nnn
  | .call nnn => formAddr 0x2 nnn
  | .sei x nn => formRegByte 0x3 x nn
  | .snei x nn => formRegByte 0x4 x nn
  | .ser x y n => formRegReg 0x5 x y n
  | .ldi x nn => formRegByte 0x6 x nn
  | .addi x nn => formRegByte 0x7 x nn
  | .mov x y => formRegReg 0x8 x y 0x0
  | .or x y => formRegReg 0x8 x y 0x1
  | .and x y => formRegReg 0x8 x y 0x2
  | .xor x y => formRegReg 0x8 x y 0x3
  | .add x y => formRegReg 0x8 x y 0x4
  | .sub x y => formRegReg 0x8 x y 0x5
  | .shr x y => formRegReg 0x8 x y 0x6
  | .subn x y => formRegReg 0x8 x y 0x7
  | .shl x y => formRegReg 0x8 x y 0xE
  | .sner x y n => formRegReg 0x9 x y n
  | .ldx nnn => formAddr 0xA nnn
  | .jpx _ nnn => formAddr 0xB nnn
  | .rnd x nn => formRegByte 0xC x nn
  | .drw x y n => formRegReg 0xD x y n
  | .skp x => formRegByte 0xE x 0x9E
  | .sknp x => formRegByte 0xE x 0xA1
  | .gdt x => formRegByte 0xF x 0x07
  | .wkey x => formRegByte 0xF x 0x0A
  | .sdt x => formRegByte 0xF x 0x15
  | .sst x => formRegByte 0xF x 0x18
  | .addx x => formRegByte 0xF x 0x1E
  | .font x => formRegByte 0xF x 0x29
  | .bcd x => formRegByte 0xF x 0x33
  | .stm x => formRegByte 0xF x 0x55
  | .ldm x => formRegByte 0xF x 0x65

/-- The instruction's mnemonic in spec/opcode_table.json. -/
def mnemonic : Instr → String
  | .cls => "CLS"        | .ret => "RET"        | .jp _ => "JP"          | .call _ => "CALL"
  | .sei _ _ => "SEI"    | .snei _ _ => "SNEI"  | .ser _ _ _ => "SER"    | .ldi _ _ => "LDI"
  | .addi _ _ => "ADDI"  | .mov _ _ => "MOV"    | .or _ _ => "OR"        | .and _ _ => "AND"
  | .xor _ _ => "XOR"    | .add _ _ => "ADD"    | .sub _ _ => "SUB"      | .shr _ _ => "SHR"
  | .subn _ _ => "SUBN"  | .shl _ _ => "SHL"    | .sner _ _ _ => "SNER"  | .ldx _ => "LDX"
  | .jpx _ _ => "JPX"    | .rnd _ _ => "RND"    | .drw _ _ _ => "DRW"    | .skp _ => "SKP"
  | .sknp _ => "SKNP"    | .gdt _ => "GDT"      | .wkey _ => "WKEY"      | .sdt _ => "SDT"
  | .sst _ => "SST"      | .addx _ => "ADDX"    | .font _ => "FONT"      | .bcd _ => "BCD"
  | .stm _ => "STM"      | .ldm _ => "LDM"

/-- A row of the opcode map of R94: the instruction is selected exactly when `w AND mask = pattern`. -/
structure OpcodeRow where
  mnemonic : String
  mask : Word
  pattern : Word
deriving DecidableEq, Repr

/-- The rows of R94 for families 0x0 to 0x7. -/
def opcodeRows0to7 : List OpcodeRow :=
  [⟨"CLS", 0xFFFF#16, 0x00E0#16⟩, ⟨"RET", 0xFFFF#16, 0x00EE#16⟩, ⟨"JP", 0xF000#16, 0x1000#16⟩, ⟨"CALL", 0xF000#16, 0x2000#16⟩,
   ⟨"SEI", 0xF000#16, 0x3000#16⟩, ⟨"SNEI", 0xF000#16, 0x4000#16⟩, ⟨"SER", 0xF000#16, 0x5000#16⟩, ⟨"LDI", 0xF000#16, 0x6000#16⟩,
   ⟨"ADDI", 0xF000#16, 0x7000#16⟩]

/-- The rows of R94 for family 0x8. -/
def opcodeRows8 : List OpcodeRow :=
  [⟨"MOV", 0xF00F#16, 0x8000#16⟩, ⟨"OR", 0xF00F#16, 0x8001#16⟩, ⟨"AND", 0xF00F#16, 0x8002#16⟩, ⟨"XOR", 0xF00F#16, 0x8003#16⟩,
   ⟨"ADD", 0xF00F#16, 0x8004#16⟩, ⟨"SUB", 0xF00F#16, 0x8005#16⟩, ⟨"SHR", 0xF00F#16, 0x8006#16⟩, ⟨"SUBN", 0xF00F#16, 0x8007#16⟩,
   ⟨"SHL", 0xF00F#16, 0x800E#16⟩]

/-- The rows of R94 for families 0x9 to 0xE. -/
def opcodeRows9toE : List OpcodeRow :=
  [⟨"SNER", 0xF000#16, 0x9000#16⟩, ⟨"LDX", 0xF000#16, 0xA000#16⟩, ⟨"JPX", 0xF000#16, 0xB000#16⟩, ⟨"RND", 0xF000#16, 0xC000#16⟩,
   ⟨"DRW", 0xF000#16, 0xD000#16⟩, ⟨"SKP", 0xF0FF#16, 0xE09E#16⟩, ⟨"SKNP", 0xF0FF#16, 0xE0A1#16⟩]

/-- The rows of R94 for family 0xF. -/
def opcodeRowsF : List OpcodeRow :=
  [⟨"GDT", 0xF0FF#16, 0xF007#16⟩, ⟨"WKEY", 0xF0FF#16, 0xF00A#16⟩, ⟨"SDT", 0xF0FF#16, 0xF015#16⟩, ⟨"SST", 0xF0FF#16, 0xF018#16⟩,
   ⟨"ADDX", 0xF0FF#16, 0xF01E#16⟩, ⟨"FONT", 0xF0FF#16, 0xF029#16⟩, ⟨"BCD", 0xF0FF#16, 0xF033#16⟩, ⟨"STM", 0xF0FF#16, 0xF055#16⟩,
   ⟨"LDM", 0xF0FF#16, 0xF065#16⟩]

/-- The opcode map of R94, one row per instruction, masks and patterns as the table prints them. The decoder
does not use it; claims compare the two. -/
def opcodeMap : List OpcodeRow := opcodeRows0to7 ++ opcodeRows8 ++ opcodeRows9toE ++ opcodeRowsF

/-- The instruction this decoder reads from an instruction whose bits are `w`, numbered as the opcode table
numbers them (bit 0 the least significant bit of the one 16-bit word); bits from `nbits` up are 0. -/
def decodeTableWord (nbits w : Nat) : Option Instr :=
  let word : Word := BitVec.ofNat 16 (w % 2 ^ nbits)
  match decode (wordOfBytes (highByte word) (lowByte word)) with
  | .ok i => some i
  | .error _ => none

end Sys2Proof
end

