-- ==== Sys2Proof/Machine/State.lean ====
section
/-! DEFINITION. The state of the core (10_state.md): the nine items of R20 as `CoreState`, the machine that holds
them with its parameters and the model's draw counter as `State`, the reasons a step can stop, and the state after
reset (R34). -/

namespace Sys2Proof.Machine

/-- The fault causes of 60_exceptions.md R231, the values of the latch but for NONE. A step that raises one
answers a NEXT state with the latch set (R232, R233); no step of the model answers `Outcome.fault`, which is
SAFE: nothing stops where the spec goes on (log 5, log 12). -/
inductive Fault where
  /-- Code 1, raised by the fetch of any step when `pc > 0xFFE` (R234). Safe: the halt computes no value (D5). -/
  | fetchOutOfRange
  /-- Code 2, raised by 00EE on an empty stack (R235). Safe (D4). -/
  | stackUnderflow
  /-- Code 3, raised by 2NNN on a stack of STACK_DEPTH entries (R236). Safe (D3). -/
  | stackOverflow
  /-- Code 4, raised by DXYN, FX33, FX55 and FX65 when an accessed address is above 0xFFF (R237). Safe (D6, D23). -/
  | memOutOfRange
  /-- Code 5, raised by EX9E and EXA1 when `V[X] > 15` (R238). Safe (D8). -/
  | keyIndexOutOfRange
deriving DecidableEq, Repr

/-- Why the model has no meaning for an instruction. Every instruction has its meaning, so no step refuses. -/
inductive Refusal where
  /-- An arm of `exec` with no meaning yet would answer this. Safe: a refusal computes nothing. None does. -/
  | notModelled (mnemonic : String)
deriving DecidableEq, Repr

/-- `mem`: the listed cells, addresses strictly rising, each below 0x1000 and holding a byte other than 0; an
address not listed reads 0x00, its reset value (R34, R60, log 4). -/
abbrev Memory := List Host.Cell

/-- `V[0..15]` (R21). -/
abbrev Registers := Vector Byte 16

/-- `fb[y][x]`: 32 rows of 64 Booleans, row index first (R27). -/
abbrev Framebuffer := Vector (Vector Bool 64) 32

/-- The framebuffer with every pixel false (R27, R190). -/
def Framebuffer.blank : Framebuffer := Vector.replicate 32 (Vector.replicate 64 false)

/-- The key vector with every key released (R28). -/
def noKeys : Vector Bool 16 := Vector.replicate 16 false

/-- The state of the core: the nine items of R20 (DT and ST are one of them) and no other field, so two core
states are equal exactly when all nine agree. -/
structure CoreState where
  /-- Memory (R29, R60). -/
  mem : Memory
  /-- The general registers V0 to VF (R21); VF is the flag (R22). -/
  v : Registers
  /-- The index register I (R23). -/
  i : Word
  /-- The program counter (R24). -/
  pc : Word
  /-- The call stack, the most recently pushed return address last (R25). -/
  stack : List Word
  /-- The delay timer DT (R26). -/
  dt : Byte
  /-- The sound timer ST (R26). -/
  st : Byte
  /-- The framebuffer (R27). -/
  fb : Framebuffer
  /-- The key vector, true while pressed (R28). -/
  key : Vector Bool 16
  /-- The fault latch; `none` is NONE (R30). -/
  fault : Option Fault
deriving DecidableEq, Repr

/-- The machine: the core state `toCoreState`, with what surrounds it and is no state of the core: the OPEN
parameters, and the index of the next random input (log 19). -/
structure State extends CoreState where
  /-- The OPEN parameters of R4 this machine was built with; no step changes them (log 2, log 3). -/
  params : Config.Params
  /-- How many random bytes have been consumed: the index of the next free value (log 1). -/
  draws : Nat
deriving DecidableEq, Repr

/-- The cells of the bytes `bs` laid out from address `a`, in the canonical form (zeros are not listed). -/
def cellsFrom : Nat → List Byte → Memory
  | _, [] => []
  | a, b :: bs => if b = 0 then cellsFrom (a + 1) bs else (a, b) :: cellsFrom (a + 1) bs

/-- The 80 bytes of FONT in the order reset copies them (R62). -/
def fontBytes (font : Config.Font) : List Byte := font.toList.flatMap Vector.toList

/-- The state after reset of a machine with the parameters `p` (R34): FONT at 0x050, `pc` at the entry
address, everything else zero, empty or false. `draws := 0` is a DESIGN CHOICE no claim uses (log 1). -/
def State.resetWith (p : Config.Params) : State where
  mem := cellsFrom Config.fontBase (fontBytes p.font)
  v := Vector.replicate 16 0
  i := 0
  pc := BitVec.ofNat 16 Config.entry
  stack := []
  dt := 0
  st := 0
  fb := Framebuffer.blank
  key := noKeys
  fault := none
  params := p
  draws := 0

/-- The machine right after reset, with the default parameters (R4, R34). -/
def State.reset : State := State.resetWith Config.default

end Sys2Proof.Machine
end

