-- ==== Sys2Proof/Machine/Ops.lean ====
section
/-! DEFINITION. The named operations over memory, registers, program counter, call stack, timers, framebuffer
and keys (00_scope.md R7), and the one operation that raises a fault. -/

namespace Sys2Proof.Machine

/-! ### Memory (20_memory.md R60, R67) -/

/-- `MemRead(a, 1)` (R67). Rules that read check the range first (R66); the value at an address that does not
exist is never used (log 4). -/
def Memory.read : Memory → Nat → Byte
  | [], _ => 0
  | c :: m, a => if c.1 = a then c.2 else Memory.read m a

/-- Puts the cell `(a, b)` at its place in the rising order, over an older cell of the same address. -/
def Memory.insert : Memory → Nat → Byte → Memory
  | [], a, b => [(a, b)]
  | c :: m, a, b =>
    if a < c.1 then (a, b) :: c :: m
    else if a = c.1 then (a, b) :: m
    else c :: Memory.insert m a b

/-- `MemWrite(a, 1, b)` (R67), keeping the canonical form: writing what an unlisted address reads as removes
the cell. -/
def Memory.write (m : Memory) (a : Nat) (b : Byte) : Memory :=
  if b = 0 then m.filter (fun c => decide (c.1 ≠ a)) else Memory.insert m a b

/-- Byte writes at `a`, `a + 1`, …, ascending: FX33, FX55 and the host's `load` (R183, R184, R212). -/
def Memory.writeBytes : Memory → Nat → List Byte → Memory
  | m, _, [] => m
  | m, a, b :: bs => Memory.writeBytes (Memory.write m a b) (a + 1) bs

/-- The canonical form from address `lo` up: addresses strictly rising and inside memory, no cell holding 0. -/
def Memory.wfFrom : Nat → Memory → Bool
  | _, [] => true
  | lo, c :: m =>
    decide (lo ≤ c.1) && decide (c.1 < Config.memSize) && decide (c.2 ≠ 0) && Memory.wfFrom (c.1 + 1) m

/-- The canonical form, in which equal memories are equal lists. -/
def Memory.wf (m : Memory) : Bool := Memory.wfFrom 0 m

/-! ### General registers (10_state.md R21) -/

/-- `V[r]` (R7). -/
def State.reg (s : State) (r : Reg) : Byte := s.v[r]

/-- `V[r] <- b` (R7). -/
def State.setReg (s : State) (r : Reg) (b : Byte) : State := { s with v := s.v.set r b }

/-! ### Program counter (10_state.md R24) -/

/-- The advance by 2 before dispatch (40_cycle.md R123). -/
def State.advance (s : State) : State := { s with pc := s.pc + 2 }

/-- `pc <- target`. -/
def State.jump (s : State) (target : Word) : State := { s with pc := target }

/-- `skip`: 2 more, on the already advanced pc (42_skips.md R150). -/
def State.skip (s : State) : State := { s with pc := s.pc + 2 }

/-- Skips the next instruction if `c` holds (R150). -/
def State.skipIf (s : State) (c : Bool) : State := if c then s.skip else s

/-- The rewind of FX0A: 2 less, on the already advanced pc (46_timers_keys.md R203). -/
def State.rewind (s : State) : State := { s with pc := s.pc - 2 }

/-! ### Faults (60_exceptions.md R232, R233)

There is no return from a fault: only reset clears the latch (R242, `State.hostReset`). -/

/-- Raising a fault: the latch takes the cause; nothing is saved and control goes nowhere (R241). That the rest
of the step is undone is `State.settle`'s part (log 5). -/
def State.raise (s : State) (f : Fault) : State := { s with fault := some f }

/-! ### Call stack (10_state.md R25) -/

/-- The stack holds STACK_DEPTH return addresses (R25, R236). -/
def State.stackFull (s : State) : Bool := decide (s.params.stackDepth ≤ s.stack.length)

/-- `push(a)` on a stack that is not full: appended last (R25). -/
def State.push (s : State) (a : Word) : State := { s with stack := s.stack ++ [a] }

/-- The entry `pop()` returns, the most recently pushed; none on an empty stack (R25). -/
def State.top (s : State) : Option Word := s.stack.getLast?

/-- The stack without the entry `pop()` returns (R25). -/
def State.dropTop (s : State) : State := { s with stack := s.stack.dropLast }

/-! ### Timers (40_cycle.md R126) -/

/-- One count down, with a floor at 0 (R126). -/
def countDown (t : Byte) : Byte := if t = 0 then 0 else t - 1

/-- The tick at the end of every completed step (R126, R129). -/
def State.tick (s : State) : State := { s with dt := countDown s.dt, st := countDown s.st }

/-- `tone_active` as delivered at the end of the step that ended in `s`: ST nonzero after the tick, false when
the step raised a fault or the core was halted (R127, log 9). -/
def State.toneActive (s : State) : Bool := s.fault.isNone && decide (s.st ≠ 0)

/-! ### The parts of a step around the executor (40_cycle.md R120) -/

/-- The fetch: the big-endian word at pc, or none when a byte of it lies outside memory (R122, R234). -/
def State.fetch (s : State) : Option Word :=
  if 0xFFE < s.pc.toNat then none
  else some (wordOfBytes (s.mem.read s.pc.toNat) (s.mem.read (s.pc.toNat + 1)))

/-- The end of a step that began in `start` and whose executor left `done`: the tick if it completed, and if
it raised a fault the state at the start with only the latch changed (R126, R128, R233). -/
def State.settle (start done : State) : State :=
  match done.fault with
  | none => done.tick
  | some f => start.raise f

/-! ### Framebuffer (10_state.md R27) -/

/-- `fb[y][x]`; false outside the grid, where there is no pixel (log 18). -/
def Framebuffer.pixel (fb : Framebuffer) (y x : Nat) : Bool :=
  if h : y < 32 ∧ x < 64 then (fb[y]'h.1)[x]'h.2 else false

/-- `fb[y][x] <- not fb[y][x]`, the XOR with 1 (45_display.md R191); nothing outside the grid. -/
def Framebuffer.toggle (fb : Framebuffer) (y x : Nat) : Framebuffer :=
  if h : y < 32 ∧ x < 64 then fb.set y ((fb[y]'h.1).set x (!(fb[y]'h.1)[x]'h.2) h.2) h.1 else fb

/-! ### Keys (10_state.md R28) -/

/-- `key[k]`. -/
def State.pressed (s : State) (k : Reg) : Bool := s.key[k]

/-- The least k with `key[k]` true, if any key is pressed (46_timers_keys.md R203). -/
def State.lowestKey (s : State) : Option Nat := s.key.toList.findIdx? id

/-! ### The random input (10_state.md R33) -/

/-- The byte the host supplies for the next CXNN: free (log 1). -/
def State.rnd (s : State) : Byte := Config.rnd s.draws

/-- The random byte has been consumed; the next CXNN receives another, independent one (R171). -/
def State.consumeRnd (s : State) : State := { s with draws := s.draws + 1 }

end Sys2Proof.Machine
end

