-- ==== Sys2Proof/Machine/Flags.lean ====
section
/-! DEFINITION. The flag values of VF (10_state.md R22) and the order in which result and flag are written
(43_alu.md R172). -/

namespace Sys2Proof.Machine

/-- A Boolean written where a number is expected: 1 for true, 0 for false (00_scope.md R6). -/
def flagByte (b : Bool) : Byte := if b then 1 else 0

/-- 8XY4: the sum of the two bytes exceeds 255 (R166). -/
def carry (a b : Byte) : Bool := decide (255 < a.toNat + b.toNat)

/-- 8XY5 and 8XY7: the minuend is strictly greater than the subtrahend (R167, R169, R173). -/
def greater (minuend subtrahend : Byte) : Bool := decide (subtrahend.toNat < minuend.toNat)

/-- 8XY6: the bit shifted out at the right (R168). -/
def lowBit (a : Byte) : Bool := a.getLsbD 0

/-- 8XYE: the bit shifted out at the left (R170). -/
def highBit (a : Byte) : Bool := a.getLsbD 7

/-- 8XY4's order: the result first, the flag last, so that for X = F the flag stays (R172, D11, log 13). -/
def State.writeResultThenFlag (s : State) (x : Reg) (result : Byte) (flag : Bool) : State :=
  (s.setReg x result).setReg vf (flagByte flag)

/-- The order of 8XY5, 8XY6, 8XY7 and 8XYE: the flag first, the result last, so that for X = F the result
stays (R172, D11, log 13). -/
def State.writeFlagThenResult (s : State) (x : Reg) (result : Byte) (flag : Bool) : State :=
  (s.setReg vf (flagByte flag)).setReg x result

end Sys2Proof.Machine
end

