-- ==== Sys2Proof/Machine/Alu.lean ====
section
/-! DEFINITION. Register loads and the 8-bit ALU (43_alu.md): 6XNN, 7XNN, 8XY0 to 8XY7, 8XYE, CXNN. Every
operand is read from the state the instruction finds, before any write (R172). -/

namespace Sys2Proof.Machine

/-- 6XNN: `V[X] <- NN` (R160). -/
def execLdi (x : Reg) (nn : Byte) (s : State) : Host.Outcome State Fault Refusal :=
  .next (s.setReg x nn)

/-- 7XNN: `V[X] <- (V[X] + NN) mod 256`, no flag (R161). -/
def execAddi (x : Reg) (nn : Byte) (s : State) : Host.Outcome State Fault Refusal :=
  .next (s.setReg x (s.reg x + nn))

/-- 8XY0: `V[X] <- V[Y]` (R162). -/
def execMov (x y : Reg) (s : State) : Host.Outcome State Fault Refusal :=
  .next (s.setReg x (s.reg y))

/-- 8XY1: `V[X] <- V[X] OR V[Y]`, VF unchanged unless X = F (R163). -/
def execOr (x y : Reg) (s : State) : Host.Outcome State Fault Refusal :=
  .next (s.setReg x (s.reg x ||| s.reg y))

/-- 8XY2: `V[X] <- V[X] AND V[Y]` (R164). -/
def execAnd (x y : Reg) (s : State) : Host.Outcome State Fault Refusal :=
  .next (s.setReg x (s.reg x &&& s.reg y))

/-- 8XY3: `V[X] <- V[X] XOR V[Y]` (R165). -/
def execXor (x y : Reg) (s : State) : Host.Outcome State Fault Refusal :=
  .next (s.setReg x (s.reg x ^^^ s.reg y))

/-- 8XY4: `V[X] <- sum mod 256`, then VF the carry (R166). -/
def execAdd (x y : Reg) (s : State) : Host.Outcome State Fault Refusal :=
  .next (s.writeResultThenFlag x (s.reg x + s.reg y) (carry (s.reg x) (s.reg y)))

/-- 8XY5: VF is 1 if VX > VY, then `V[X] <- (V[X] - V[Y]) mod 256` (R167). -/
def execSub (x y : Reg) (s : State) : Host.Outcome State Fault Refusal :=
  .next (s.writeFlagThenResult x (s.reg x - s.reg y) (greater (s.reg x) (s.reg y)))

/-- 8XY6: VF is the old bit 0, then `V[X] <- V[X] >> 1`; Y is ignored (R168). -/
def execShr (x : Reg) (s : State) : Host.Outcome State Fault Refusal :=
  .next (s.writeFlagThenResult x (s.reg x >>> 1) (lowBit (s.reg x)))

/-- 8XY7: VF is 1 if VY > VX, then `V[X] <- (V[Y] - V[X]) mod 256` (R169). -/
def execSubn (x y : Reg) (s : State) : Host.Outcome State Fault Refusal :=
  .next (s.writeFlagThenResult x (s.reg y - s.reg x) (greater (s.reg y) (s.reg x)))

/-- 8XYE: VF is the old bit 7, then `V[X] <- (V[X] << 1) mod 256`; Y is ignored (R170). -/
def execShl (x : Reg) (s : State) : Host.Outcome State Fault Refusal :=
  .next (s.writeFlagThenResult x (s.reg x <<< 1) (highBit (s.reg x)))

/-- CXNN with the random byte given: `V[X] <- rnd AND NN` (R171). -/
def State.loadRandom (s : State) (x : Reg) (nn rnd : Byte) : State := s.setReg x (rnd &&& nn)

/-- CXNN with the byte the host supplies, a free value that is then consumed (R171, D13, log 1). -/
def execRnd (x : Reg) (nn : Byte) (s : State) : Host.Outcome State Fault Refusal :=
  .next ((s.loadRandom x nn s.rnd).consumeRnd)

end Sys2Proof.Machine
end

