-- ==== Sys2Proof/Machine/Operands.lean ====
section
/-! DEFINITION. The operand forms: zero-extended immediates (30_encoding.md R92), the effective addresses
`I + k` and their range check (44_index_memory.md R186), the key index (42_skips.md R155), the origin and the
rows of a sprite (45_display.md R191, R192), the decimal digits (44_index_memory.md R183). -/

namespace Sys2Proof.Machine

/-- `zext_16(NNN)` (R92). -/
def zextAddr (nnn : Addr) : Word := nnn.setWidth 16

/-- `zext_16(V[X])` (R143, R181). -/
def zextByte (b : Byte) : Word := b.setWidth 16

/-- `ea = I + k`, a natural number, no wrap and no reduction (R186). -/
def State.ea (s : State) (k : Nat) : Nat := s.i.toNat + k

/-- An access whose last address is `I + last` stays inside memory (R66, R186). -/
def State.inMemory (s : State) (last : Nat) : Bool := decide (s.ea last ≤ 0xFFF)

/-- The bytes at `I`, `I + 1`, … (`n` of them). -/
def State.bytesAtI (s : State) (n : Nat) : List Byte := (List.range n).map fun k => s.mem.read (s.ea k)

/-- V0 to VX, `x + 1` bytes, V0 first: what FX55 stores (R184). The X field is a count here (R105). -/
def State.regsTo (s : State) (x : Reg) : List Byte := s.v.toList.take (x.val + 1)

/-- Loads `bs` into V[k], V[k+1], …, ascending (R185). -/
def loadRegs : Registers → Nat → List Byte → Registers
  | v, _, [] => v
  | v, k, b :: bs => loadRegs (v.setIfInBounds k b) (k + 1) bs

/-- The hundreds, tens and ones of a byte, one digit a byte (R183). -/
def decimalDigits (b : Byte) : List Byte :=
  [BitVec.ofNat 8 (b.toNat / 100), BitVec.ofNat 8 (b.toNat / 10 % 10), BitVec.ofNat 8 (b.toNat % 10)]

/-- The glyph address `FONT_BASE + (V AND 0x0F) * 5` (R182). -/
def glyphAddr (b : Byte) : Word := BitVec.ofNat 16 (Config.fontBase + (b &&& 0x0F).toNat * Config.glyphBytes)

/-- The key index `V[X]`; none above 15, where there is no slot (R155, R238). -/
def keyIndex (b : Byte) : Option Reg := if h : b.toNat < 16 then some ⟨b.toNat, h⟩ else none

/-- The column of a sprite's origin, `V[X] mod 64` (R191). -/
def originX (b : Byte) : Nat := b.toNat % Config.fbCols

/-- The row of a sprite's origin, `V[Y] mod 32` (R191). -/
def originY (b : Byte) : Nat := b.toNat % Config.fbRows

/-- `rmax`: the last row a draw of `n ≥ 1` rows reads from row `y0`, the first clipped row included, since the
text reads a row before it tests the clip (R191, D23). -/
def lastRowRead (n y0 : Nat) : Nat := min (n - 1) (Config.fbRows - y0)

/-- Sprite column `c` of a row byte: bit 7 is column 0 (R192). -/
def spriteBit (row : Byte) (c : Nat) : Bool := row.getLsbD (7 - c)

end Sys2Proof.Machine
end

