-- ==== Sys2Proof/Machine/Display.lean ====
section
/-! DEFINITION. Display instructions (45_display.md): 00E0, DXYN. The draw is the source's loop, row by row and
bit by bit, with both clips and the collision test before each XOR (R191). -/

namespace Sys2Proof.Machine

/-- A draw in progress: the framebuffer so far and whether a collision has been seen (R191). -/
structure Canvas where
  fb : Framebuffer
  collision : Bool
deriving DecidableEq, Repr

/-- A sprite bit that is 1 on the pixel (y, x): the collision test, then the XOR (R191). -/
def Canvas.plot (d : Canvas) (y x : Nat) : Canvas where
  fb := d.fb.toggle y x
  collision := d.collision || d.fb.pixel y x

/-- The sprite columns `cs` of one row at framebuffer row `y`; the first column at x ≥ 64 ends the row
(horizontal clip, R191). -/
def drawBits (row : Byte) (y x0 : Nat) : List Nat → Canvas → Canvas
  | [], d => d
  | c :: cs, d =>
    if Config.fbCols ≤ x0 + c then d
    else drawBits row y x0 cs (if spriteBit row c then d.plot y (x0 + c) else d)

/-- The sprite rows `rs` of the sprite at `base`; the first row at y ≥ 32 ends the draw (vertical clip,
R191). -/
def drawRows (m : Memory) (base y0 x0 : Nat) : List Nat → Canvas → Canvas
  | [], d => d
  | r :: rs, d =>
    if Config.fbRows ≤ y0 + r then d
    else drawRows m base y0 x0 rs (drawBits (m.read (base + r)) (y0 + r) x0 (List.range 8) d)

/-- The whole draw of `n` rows at the origin the operands give (R191). -/
def State.sprite (s : State) (x y : Reg) (n : Nat) : Canvas :=
  drawRows s.mem (s.ea 0) (originY (s.reg y)) (originX (s.reg x)) (List.range n) ⟨s.fb, false⟩

/-- The bytes a draw of `n` rows reads are inside memory; a draw of no rows reads none (R191, R194, R237). -/
def State.spriteInMemory (s : State) (y : Reg) (n : Nat) : Bool :=
  decide (n = 0) || s.inMemory (lastRowRead n (originY (s.reg y)))

/-- Every pixel false (R190); also the host's clearDisplay (R214). -/
def State.clearPixels (s : State) : State := { s with fb := Framebuffer.blank }

/-- 00E0: clears the framebuffer (R190). -/
def execCls (s : State) : Host.Outcome State Fault Refusal :=
  .next s.clearPixels

/-- DXYN: draws N rows at (VX mod 64, VY mod 32), VF the collision; the origin is read from the registers
before VF is written (R191, D12, log 14); MEM_OUT_OF_RANGE before any change (R237). -/
def execDrw (x y : Reg) (n : Nibble) (s : State) : Host.Outcome State Fault Refusal :=
  if s.spriteInMemory y n.toNat then
    let d := s.sprite x y n.toNat
    .next { s.setReg vf (flagByte d.collision) with fb := d.fb }
  else .next (s.raise .memOutOfRange)

end Sys2Proof.Machine
end

