-- ==== Sys2Proof/Machine/Flow.lean ====
section
/-! DEFINITION. Control transfer (41_flow.md): 00EE, 1NNN, 2NNN, BXNN. In every meaning of this model `s.pc`
is already the address of the instruction plus 2 (40_cycle.md R123, R125). -/

namespace Sys2Proof.Machine

/-- 00EE: pops the call stack into pc; STACK_UNDERFLOW on an empty stack (R140, R235). -/
def execRet (s : State) : Host.Outcome State Fault Refusal :=
  match s.top with
  | none => .next (s.raise .stackUnderflow)
  | some a => .next (s.dropTop.jump a)

/-- 1NNN: `pc <- zext_16(NNN)` (R141). -/
def execJp (nnn : Addr) (s : State) : Host.Outcome State Fault Refusal :=
  .next (s.jump (zextAddr nnn))

/-- 2NNN: pushes the advanced pc, then `pc <- zext_16(NNN)`; STACK_OVERFLOW on a full stack (R142, R236). -/
def execCall (nnn : Addr) (s : State) : Host.Outcome State Fault Refusal :=
  if s.stackFull then .next (s.raise .stackOverflow)
  else .next ((s.push s.pc).jump (zextAddr nnn))

/-- BXNN: `pc <- zext_16(NNN) + zext_16(V[X])`, not reduced to 12 bits; X is the top nibble of NNN (R143). -/
def execJpx (x : Reg) (nnn : Addr) (s : State) : Host.Outcome State Fault Refusal :=
  .next (s.jump (zextAddr nnn + zextByte (s.reg x)))

end Sys2Proof.Machine
end

