-- ==== Sys2Proof/Machine/IndexMemory.lean ====
section
/-! DEFINITION. Index register and memory instructions (44_index_memory.md): ANNN, FX1E, FX29, FX33, FX55,
FX65. Every address is checked before any state changes, and I is left as it was (R186). -/

namespace Sys2Proof.Machine

/-- `I <- w` (00_scope.md R7). -/
def State.setIndex (s : State) (w : Word) : State := { s with i := w }

/-- The bytes `bs` stored at `I`, `I + 1`, …, each below 0x1000 (R186). -/
def State.storeAtI (s : State) (bs : List Byte) : State := { s with mem := s.mem.writeBytes (s.ea 0) bs }

/-- ANNN: `I <- zext_16(NNN)` (R180). -/
def execLdx (nnn : Addr) (s : State) : Host.Outcome State Fault Refusal :=
  .next (s.setIndex (zextAddr nnn))

/-- FX1E: `I <- (I + zext_16(V[X])) mod 65536`, no flag (R181, D7, log 15). -/
def execAddx (x : Reg) (s : State) : Host.Outcome State Fault Refusal :=
  .next (s.setIndex (s.i + zextByte (s.reg x)))

/-- FX29: `I <- 0x050 + (V[X] AND 0x0F) * 5`; no memory access (R182). -/
def execFont (x : Reg) (s : State) : Host.Outcome State Fault Refusal :=
  .next (s.setIndex (glyphAddr (s.reg x)))

/-- FX33: the decimal digits of V[X] at I, I+1, I+2; MEM_OUT_OF_RANGE if `I + 2 > 0xFFF` (R183, R237). -/
def execBcd (x : Reg) (s : State) : Host.Outcome State Fault Refusal :=
  if s.inMemory 2 then .next (s.storeAtI (decimalDigits (s.reg x)))
  else .next (s.raise .memOutOfRange)

/-- FX55: V0 to VX at I, ascending; MEM_OUT_OF_RANGE if `I + X > 0xFFF` (R184, R237). -/
def execStm (x : Reg) (s : State) : Host.Outcome State Fault Refusal :=
  if s.inMemory x.val then .next (s.storeAtI (s.regsTo x))
  else .next (s.raise .memOutOfRange)

/-- FX65: V0 to VX from I, ascending; MEM_OUT_OF_RANGE if `I + X > 0xFFF` (R185, R237). -/
def execLdm (x : Reg) (s : State) : Host.Outcome State Fault Refusal :=
  if s.inMemory x.val then .next { s with v := loadRegs s.v 0 (s.bytesAtI (x.val + 1)) }
  else .next (s.raise .memOutOfRange)

end Sys2Proof.Machine
end

