-- ==== Sys2Proof/Machine/Skips.lean ====
section
/-! DEFINITION. The conditional skips (42_skips.md): 3XNN, 4XNN, 5XY_, 9XY_, EX9E, EXA1. -/

namespace Sys2Proof.Machine

/-- 3XNN: skip if `V[X] = NN` (R151). -/
def execSei (x : Reg) (nn : Byte) (s : State) : Host.Outcome State Fault Refusal :=
  .next (s.skipIf (decide (s.reg x = nn)))

/-- 4XNN: skip if `V[X] != NN` (R152). -/
def execSnei (x : Reg) (nn : Byte) (s : State) : Host.Outcome State Fault Refusal :=
  .next (s.skipIf (decide (s.reg x ≠ nn)))

/-- 5XY_: skip if `V[X] = V[Y]`; the low nibble is ignored (R153, R96). -/
def execSer (x y : Reg) (s : State) : Host.Outcome State Fault Refusal :=
  .next (s.skipIf (decide (s.reg x = s.reg y)))

/-- 9XY_: skip if `V[X] != V[Y]`; the low nibble is ignored (R154, R96). -/
def execSner (x y : Reg) (s : State) : Host.Outcome State Fault Refusal :=
  .next (s.skipIf (decide (s.reg x ≠ s.reg y)))

/-- EX9E: skip if the key indexed by `V[X]` is pressed; KEY_INDEX_OUT_OF_RANGE above 15 (R155, R238). -/
def execSkp (x : Reg) (s : State) : Host.Outcome State Fault Refusal :=
  match keyIndex (s.reg x) with
  | none => .next (s.raise .keyIndexOutOfRange)
  | some k => .next (s.skipIf (s.pressed k))

/-- EXA1: skip if the key indexed by `V[X]` is not pressed; KEY_INDEX_OUT_OF_RANGE above 15 (R156, R238). -/
def execSknp (x : Reg) (s : State) : Host.Outcome State Fault Refusal :=
  match keyIndex (s.reg x) with
  | none => .next (s.raise .keyIndexOutOfRange)
  | some k => .next (s.skipIf (!s.pressed k))

end Sys2Proof.Machine
end

