-- ==== Sys2Proof/Machine/TimersKeys.lean ====
section
/-! DEFINITION. Timer and key-wait instructions (46_timers_keys.md): FX07, FX15, FX18, FX0A, and the no-op of
the undefined words (30_encoding.md R100). The tick of the same step comes after them (R204). -/

namespace Sys2Proof.Machine

/-- FX07: `V[X] <- DT`, before this step's tick (R200). -/
def execGdt (x : Reg) (s : State) : Host.Outcome State Fault Refusal :=
  .next (s.setReg x s.dt)

/-- FX15: `DT <- V[X]` (R201). -/
def execSdt (x : Reg) (s : State) : Host.Outcome State Fault Refusal :=
  .next { s with dt := s.reg x }

/-- FX18: `ST <- V[X]` (R202). -/
def execSst (x : Reg) (s : State) : Host.Outcome State Fault Refusal :=
  .next { s with st := s.reg x }

/-- FX0A: the least pressed key's index into V[X], or pc back to this FX0A if none is pressed (R203). -/
def execWkey (x : Reg) (s : State) : Host.Outcome State Fault Refusal :=
  match s.lowestKey with
  | some k => .next (s.setReg x (BitVec.ofNat 8 k))
  | none => .next s.rewind

/-- NOP, every word that selects no instruction: the executor changes no state (R100). -/
def execNop (s : State) : Host.Outcome State Fault Refusal := .next s

end Sys2Proof.Machine
end

