-- ==== Sys2Proof/Machine/Step.lean ====
section
/-! DEFINITION. The CycleDriver's one step (40_cycle.md R120): halted check, fetch, advance, decode, execute,
tick, and the roll back of a step that raised a fault. -/

namespace Sys2Proof.Machine

/-- Decode and execute one fetched word; a word that selects no instruction is the no-op (R124, R100). -/
def executeWord (w : Word) (s : State) : Host.Outcome State Fault Refusal :=
  match decode w with
  | .ok i => exec i s
  | .error _ => execNop s

/-- The end of the step that began in `start`: `State.settle` on the executor's next state. -/
def finishStep (start : State) : Host.Outcome State Fault Refusal → Host.Outcome State Fault Refusal
  | .next t => .next (start.settle t)
  | .fault f => .fault f
  | .refused r => .refused r

/-- One step (R120). A halted core changes nothing (R121); a fetch outside memory raises FETCH_OUT_OF_RANGE
(R122, R234); otherwise pc is advanced by 2 before the word is executed (R123), and the step is settled
(R126, R128). The output `tone_active` is `State.toneActive` of the state answered (R127, log 9). -/
def step (s : State) : Host.Outcome State Fault Refusal :=
  match s.fault with
  | some _ => .next s
  | none =>
    match s.fetch with
    | none => .next (s.raise .fetchOutOfRange)
    | some w => finishStep s (executeWord w s.advance)

/-- `s` with the instruction whose bits are `w` stored where `step` fetches next, high byte first; bits from
`nbits` up are 0. It stands for the host's load (log 11). So that the very next step runs the word, the latch
is cleared and a pc outside 0 to 0xFFE is put at the entry address; where `s` can fetch, neither changes. -/
def State.withFetchWord (s : State) (nbits w : Nat) : State :=
  let word : Word := BitVec.ofNat 16 (w % 2 ^ nbits)
  let pc : Word := if s.pc.toNat ≤ 0xFFE then s.pc else BitVec.ofNat 16 Config.entry
  { s with
    mem := s.mem.writeBytes pc.toNat [highByte word, lowByte word]
    pc := pc
    fault := none }

end Sys2Proof.Machine
end

