-- ==== Sys2Proof/Machine/HostOps.lean ====
section
/-! DEFINITION. What crosses the boundary of the core (50_host_interface.md): the operations of the agent
outside it, each between two steps (R219), the outputs, and an execution as a list of events (R274). -/

namespace Sys2Proof.Machine

/-- `reset`: the construction state of this machine, all memory included (R211, R260, R261). It keeps the
parameters, and it does not put the random input back (log 1, log 10). -/
def State.hostReset (s : State) : State := { State.resetWith s.params with draws := s.draws }

/-- `load(bytes)`: the bytes at 0x200 onward and nothing else, or a load failure (none) when they overflow
memory, which is no fault of the core (R212, R244). -/
def State.load (s : State) (bytes : List Byte) : Option State :=
  if Config.entry + bytes.length ≤ Config.memSize then
    some { s with mem := s.mem.writeBytes Config.entry bytes }
  else none

/-- `setKey(k, pressed)`: one slot (R213). The index is 4 bits wide (D20). -/
def State.setKey (s : State) (k : Reg) (pressed : Bool) : State := { s with key := s.key.set k pressed }

/-- `clearKeys()`: all sixteen slots false (R213). -/
def State.clearKeys (s : State) : State := { s with key := noKeys }

/-- `clearDisplay()`: every pixel false, without a step (R214). -/
def State.clearDisplay (s : State) : State := s.clearPixels

/-- `framebuffer()`: the read-only view of the pixel grid (R215). -/
def State.framebuffer (s : State) : Framebuffer := s.fb

/-- The numeric code of the latch as the host reads it (R218, R231). -/
def faultCode : Option Fault → Nat
  | none => 0
  | some .fetchOutOfRange => 1
  | some .stackUnderflow => 2
  | some .stackOverflow => 3
  | some .memOutOfRange => 4
  | some .keyIndexOutOfRange => 5

/-- One element of an execution: a host operation or a step (R219, R274). The random byte of a step is the
free value `State.rnd` (R216, log 1). -/
inductive HostEvent where
  | reset
  | load (bytes : List Byte)
  | setKey (k : Reg) (pressed : Bool)
  | clearKeys
  | clearDisplay
  | step
deriving DecidableEq, Repr

/-- The state after one event; a failed load leaves it unmodified (R212). -/
def applyEvent : HostEvent → State → Host.Outcome State Fault Refusal
  | .reset, s => .next s.hostReset
  | .load bytes, s => .next ((s.load bytes).getD s)
  | .setKey k pressed, s => .next (s.setKey k pressed)
  | .clearKeys, s => .next s.clearKeys
  | .clearDisplay, s => .next s.clearDisplay
  | .step, s => Sys2Proof.Machine.step s

/-- An execution: the events one after another, the state passing from each to the next (R219). -/
def runEvents : List HostEvent → State → Host.Outcome State Fault Refusal
  | [], s => .next s
  | e :: es, s =>
    match applyEvent e s with
    | .next t => runEvents es t
    | .fault f => .fault f
    | .refused r => .refused r

end Sys2Proof.Machine
end

