-- ==== Sys2Proof/Safety.lean ====
section
/-! DEFINITION. What counts as a safe state (60_exceptions.md R232) and the invariants of 10_state.md R37, in
the terms claims use. -/

namespace Sys2Proof.Machine

/-- The safety predicate: no fault recorded (R232). A halted state is never the good end of a run. -/
def State.Running (s : State) : Prop := s.fault = none

/-- The invariants of R37 that the types do not carry, with the canonical form of memory and the parameters'
own condition (R4). -/
structure State.Inv (s : State) : Prop where
  /-- R37 (c): the largest value is BFFF with VF = 0xFF (R24). -/
  pc_le : s.pc.toNat ≤ 0x10FE
  /-- R37 (d). -/
  depth : s.stack.length ≤ s.params.stackDepth
  /-- R37 (d): only an advanced pc after a successful fetch is ever pushed. -/
  entries : ∀ a ∈ s.stack, a.toNat ≤ 0x1000
  /-- Equal memories are equal lists; every cell lies inside memory (R60, log 4). -/
  memory : s.mem.wf = true
  /-- R4: STACK_DEPTH at least 1, glyph A as the source gives it. -/
  params : s.params.valid = true

/-- The next step of a running core fetches the word of `i`: both bytes at pc lie in memory and their
big-endian word decodes to `i` (R122, R124). -/
def State.Selects (s : State) (i : Instr) : Prop :=
  s.pc.toNat ≤ 0xFFE ∧
    decode (wordOfBytes (s.mem.read s.pc.toNat) (s.mem.read (s.pc.toNat + 1))) = .ok i

/-- A completed next step stores the byte of value `b` at address `a`: a register dumped by FX55 or a decimal digit
of FX33, the only instructions that store (R29, R183, R184). -/
def State.StoresByte (s : State) (a b : Nat) : Prop :=
  (∃ x r : Reg, s.Selects (.stm x) ∧ r ≤ x ∧ a = s.i.toNat + r.val ∧ b = (s.reg r).toNat) ∨
  ∃ x, s.Selects (.bcd x) ∧
    ((a = s.i.toNat ∧ b = (s.reg x).toNat / 100) ∨ (a = s.i.toNat + 1 ∧ b = (s.reg x).toNat / 10 % 10) ∨
      (a = s.i.toNat + 2 ∧ b = (s.reg x).toNat % 10))

/-- The sprite DXYN would draw has a bit that is 1, and that is not clipped, on the pixel in row `py` and
column `px`: the pixel lies in the sprite's rectangle and on the screen, and bit 7 - c of byte r of the sprite
is 1, r and c its row and column in the sprite (R191, R192, R193 (c)). -/
def State.spritePixel (s : State) (x y : Reg) (n : Nat) (py px : Nat) : Bool :=
  let x0 := (s.reg x).toNat % 64
  let y0 := (s.reg y).toNat % 32
  decide (y0 ≤ py ∧ py < y0 + n ∧ py < 32 ∧ x0 ≤ px ∧ px < x0 + 8 ∧ px < 64) &&
    (s.mem.read (s.i.toNat + (py - y0))).getLsbD (7 - (px - x0))

/-- The words that select no instruction, as R100 lists them by family, class, low nibble and low byte. -/
def undefinedWord (w : Word) : Prop :=
  (w.toNat / 4096 = 0x0 ∧ w.toNat ≠ 0x00E0 ∧ w.toNat ≠ 0x00EE) ∨
  (w.toNat / 4096 = 0x8 ∧ w.toNat % 16 ∈ [0x8, 0x9, 0xA, 0xB, 0xC, 0xD, 0xF]) ∨
  (w.toNat / 4096 = 0xE ∧ w.toNat % 256 ∉ [0x9E, 0xA1]) ∨
  (w.toNat / 4096 = 0xF ∧ w.toNat % 256 ∉ [0x07, 0x0A, 0x15, 0x18, 0x1E, 0x29, 0x33, 0x55, 0x65])

/-- The condition of each fault on the state at the start of the step, as the table of R231 gives it. -/
def State.faultCondition (s : State) : Fault → Prop
  | .fetchOutOfRange => 0xFFE < s.pc.toNat
  | .stackUnderflow => s.Selects .ret ∧ s.stack = []
  | .stackOverflow => ∃ nnn, s.Selects (.call nnn) ∧ s.stack.length = s.params.stackDepth
  | .memOutOfRange =>
    (∃ x, s.Selects (.bcd x) ∧ 0xFFF < s.i.toNat + 2) ∨
    (∃ x, s.Selects (.stm x) ∧ 0xFFF < s.i.toNat + x.val) ∨
    (∃ x, s.Selects (.ldm x) ∧ 0xFFF < s.i.toNat + x.val) ∨
    (∃ x y n, s.Selects (.drw x y n) ∧ 0 < n.toNat ∧
      0xFFF < s.i.toNat + min (n.toNat - 1) (32 - (s.reg y).toNat % 32))
  | .keyIndexOutOfRange => ∃ x, (s.Selects (.skp x) ∨ s.Selects (.sknp x)) ∧ 15 < (s.reg x).toNat

/-- The registers an instruction writes its result to (the `V` row of R20's table, R185 for FX65). -/
def writesResult (r : Reg) : Instr → Prop
  | .ldi x _ | .addi x _ | .rnd x _ => r = x
  | .mov x _ | .or x _ | .and x _ | .xor x _ => r = x
  | .add x _ | .sub x _ | .shr x _ | .subn x _ | .shl x _ => r = x
  | .gdt x | .wkey x => r = x
  | .ldm x => r ≤ x
  | .cls | .ret | .jp _ | .call _ | .jpx _ _ | .ldx _ => False
  | .sei _ _ | .snei _ _ | .ser _ _ _ | .sner _ _ _ | .skp _ | .sknp _ => False
  | .drw _ _ _ | .sdt _ | .sst _ | .addx _ | .font _ | .bcd _ | .stm _ => False

/-- The six instructions that write VF as a side effect (R22). -/
def writesFlag : Instr → Prop
  | .add _ _ | .sub _ _ | .shr _ _ | .subn _ _ | .shl _ _ | .drw _ _ _ => True
  | .cls | .ret | .jp _ | .call _ | .jpx _ _ | .ldx _ => False
  | .sei _ _ | .snei _ _ | .ser _ _ _ | .sner _ _ _ | .skp _ | .sknp _ => False
  | .ldi _ _ | .addi _ _ | .rnd _ _ | .mov _ _ | .or _ _ | .and _ _ | .xor _ _ => False
  | .gdt _ | .wkey _ | .sdt _ | .sst _ | .addx _ | .font _ | .bcd _ | .stm _ | .ldm _ => False

/-- Whether a skip instruction is taken in `s`: none for an instruction that is no skip, and for a key skip
whose index names no key (R151 to R156). -/
def State.skipTaken (s : State) : Instr → Option Bool
  | .sei x nn => some (decide (s.reg x = nn))
  | .snei x nn => some (decide (s.reg x ≠ nn))
  | .ser x y _ => some (decide (s.reg x = s.reg y))
  | .sner x y _ => some (decide (s.reg x ≠ s.reg y))
  | .skp x => if h : (s.reg x).toNat < 16 then some (s.key[(s.reg x).toNat]) else none
  | .sknp x => if h : (s.reg x).toNat < 16 then some (!s.key[(s.reg x).toNat]) else none
  | .cls | .ret | .jp _ | .call _ | .jpx _ _ | .ldx _ => none
  | .ldi _ _ | .addi _ _ | .rnd _ _ | .mov _ _ | .or _ _ | .and _ _ | .xor _ _ => none
  | .add _ _ | .sub _ _ | .shr _ _ | .subn _ _ | .shl _ _ | .drw _ _ _ => none
  | .gdt _ | .wkey _ | .sdt _ | .sst _ | .addx _ | .font _ | .bcd _ | .stm _ | .ldm _ => none

end Sys2Proof.Machine
end

