-- ==== Sys2Proof/Certificates/Slice0/Obligations.lean ====
section
/-! DEFINITION. The statements for the provers. In every statement about `exec` the state `s` has pc already
advanced by 2, as the executor sees it (40_cycle.md R123, R125); the statements about `step` say the whole step.
A next state written `{ s with … }` states the frame too: every field not named keeps its value.
A statement that rests on a decision of the spec (92_eei_decisions.md) or on a log entry says so. -/

open Sys2Proof Sys2Proof.Machine

/-! ### Decoding and encoding (30_encoding.md) -/

/-- Every word of section 2.1 of 95_test_vectors.md decodes as it says, and so do 4A42 of section 2.2 and 7105 of
section 2.3: words of every family and format. 01E0 is a no-op by the spec's decision D10. -/
def Obligations.DecodeReadsTheSpecsWords : Prop :=
  decode 0x00E0 = .ok .cls ∧ decode 0x00EE = .ok .ret ∧ decode 0x01E0 = .error .family0 ∧
  decode 0x0000 = .error .family0 ∧ decode 0x1ABC = .ok (.jp 0xABC) ∧ decode 0x2300 = .ok (.call 0x300) ∧
  decode 0x3A42 = .ok (.sei 0xA 0x42) ∧ decode 0x512F = .ok (.ser 1 2 0xF) ∧
  decode 0x6005 = .ok (.ldi 0 0x05) ∧ decode 0x8014 = .ok (.add 0 1) ∧ decode 0x8128 = .error .family8 ∧
  decode 0x812E = .ok (.shl 1 2) ∧ decode 0x9127 = .ok (.sner 1 2 7) ∧ decode 0xA300 = .ok (.ldx 0x300) ∧
  decode 0xB2F0 = .ok (.jpx 2 0x2F0) ∧ decode 0xC00F = .ok (.rnd 0 0x0F) ∧ decode 0xD345 = .ok (.drw 3 4 5) ∧
  decode 0xE29E = .ok (.skp 2) ∧ decode 0xE2A1 = .ok (.sknp 2) ∧ decode 0xE29F = .error .familyE ∧
  decode 0xF20A = .ok (.wkey 2) ∧ decode 0xF265 = .ok (.ldm 2) ∧ decode 0xF2FF = .error .familyF ∧
  decode 0x4A42 = .ok (.snei 0xA 0x42) ∧ decode 0x7105 = .ok (.addi 1 0x05)

/-- An instruction is selected exactly when `(w AND mask) = match` for its row of the opcode map; there are 34
rows, every instruction has one, and no word satisfies two (R94; the full-word match of family 0x0 is the
spec's decision D10, log 16). -/
def Obligations.DecodeFollowsTheOpcodeMap : Prop :=
  opcodeMap.length = 34 ∧
  (∀ i : Instr, ∃ row ∈ opcodeMap, row.mnemonic = mnemonic i) ∧
  (∀ w : Word, ∀ row ∈ opcodeMap,
    (w &&& row.mask = row.pattern ↔ ∃ i, decode w = .ok i ∧ mnemonic i = row.mnemonic)) ∧
  (∀ w : Word, ∀ a ∈ opcodeMap, ∀ b ∈ opcodeMap,
    w &&& a.mask = a.pattern → w &&& b.mask = b.pattern → a = b)

/-- Decoding the encoded word of any well-formed instruction gives it back, whatever its operands. -/
def Obligations.DecodeOfEncodeIsTheInstruction : Prop :=
  ∀ i : Instr, i.wellFormed = true → decode (encode i) = .ok i

/-- Every word that decodes is the encoding of what it decodes to, which is well formed: no bit of a word is
dropped, the ignored ones included. -/
def Obligations.EncodeOfDecodeIsTheWord : Prop :=
  ∀ (w : Word) (i : Instr), decode w = .ok i → i.wellFormed = true ∧ encode i = w

/-- The words outside the 34 patterns are the ones R100 lists, and each executes as a no-op in an ordinary step:
pc advanced by 2, both timers ticked, nothing else changed. (That the list holds every 0NNN but 00E0 and 00EE
is the spec's decision D10, log 16.) -/
def Obligations.UndefinedWordIsANoOp : Prop :=
  (∀ w : Word, undefinedWord w ↔ ∃ u, decode w = .error u) ∧
  (∀ (s : State) (w : Word), s.Running → s.pc.toNat ≤ 0xFFE →
    wordOfBytes (s.mem.read s.pc.toNat) (s.mem.read (s.pc.toNat + 1)) = w → undefinedWord w →
    ∃ dt st, step s = .next { s with pc := s.pc + 2, dt := dt, st := st } ∧
      dt.toNat = s.dt.toNat - 1 ∧ st.toNat = s.st.toNat - 1)

/-! ### The step (40_cycle.md, 60_exceptions.md) -/

/-- A step of a running core runs exactly the instruction its next word decodes to, on the state with pc
advanced by 2, and then ticks both timers; if the executor raised a fault, the state at the start of the step
comes back with only the latch set (R120; the roll back is the spec's decision D18, log 5). -/
def Obligations.StepRunsTheDecodedInstruction : Prop :=
  ∀ (s : State) (i : Instr), s.Running → s.pc.toNat ≤ 0xFFE →
    decode (wordOfBytes (s.mem.read s.pc.toNat) (s.mem.read (s.pc.toNat + 1))) = .ok i →
    (∀ t, exec i { s with pc := s.pc + 2 } = .next t → t.fault = none →
      ∃ dt st, step s = .next { t with dt := dt, st := st } ∧
        dt.toNat = t.dt.toNat - 1 ∧ st.toNat = t.st.toNat - 1) ∧
    (∀ t f, exec i { s with pc := s.pc + 2 } = .next t → t.fault = some f →
      step s = .next { s with fault := some f })

/-- The fetched word is 256 times the byte at pc plus the byte at pc + 1, so its high byte is the one at the lower
address, and the instruction the step selects is the one the word of that value decodes to (R63, R122, R124; the
range pc ≤ 0xFFE is the spec's decision D5). -/
def Obligations.FetchIsBigEndian : Prop :=
  (∀ hi lo : Byte, (wordOfBytes hi lo).toNat = 256 * hi.toNat + lo.toNat) ∧
  (∀ s : State, s.pc.toNat ≤ 0xFFE → ∃ w, s.fetch = some w ∧
    w.toNat = 256 * (s.mem.read s.pc.toNat).toNat + (s.mem.read (s.pc.toNat + 1)).toNat) ∧
  (∀ (s : State) (w : Word) (i : Instr), s.pc.toNat ≤ 0xFFE →
    w.toNat = 256 * (s.mem.read s.pc.toNat).toNat + (s.mem.read (s.pc.toNat + 1)).toNat →
    (s.Selects i ↔ decode w = .ok i))

/-- `withFetchWord` places a word where the next step fetches it, its high byte at pc and its low byte at pc + 1,
and changes no other byte and no other field of a state that can fetch (the model's own operation, log 11). -/
def Obligations.WithFetchWordPlacesTheNextWord : Prop :=
  ∀ (s : State) (w : Nat), w < 65536 →
    (s.withFetchWord 16 w).fault = none ∧
    (s.withFetchWord 16 w).fetch = some (BitVec.ofNat 16 w) ∧
    (s.Running → s.pc.toNat ≤ 0xFFE → ∃ m, s.withFetchWord 16 w = { s with mem := m } ∧
      (m.read s.pc.toNat).toNat = w / 256 ∧ (m.read (s.pc.toNat + 1)).toNat = w % 256 ∧
      ∀ a, a ≠ s.pc.toNat → a ≠ s.pc.toNat + 1 → m.read a = s.mem.read a)

/-- The next core state is determined by the nine items of the core state, the machine's parameters, the event and,
in a step of CXNN only, the random byte: the draw counter reaches the core by nothing but that byte (R20, R125,
R274; log 1, log 19). -/
def Obligations.CoreStateAndByteDetermineTheNext : Prop :=
  ∀ (e : HostEvent) (s u t w : State), s.toCoreState = u.toCoreState → s.params = u.params →
    (Config.rnd s.draws = Config.rnd u.draws ∨ e ≠ .step ∨ ∀ x nn, ¬s.Selects (.rnd x nn)) →
    applyEvent e s = .next t → applyEvent e u = .next w →
    t.toCoreState = w.toCoreState ∧ t.params = w.params

/-- Every step of every state answers a next state: nothing stops the model, a fault included (R274; log 5). -/
def Obligations.EveryStepAnswersANextState : Prop :=
  ∀ s : State, ∃ t, step s = .next t

/-- A step of a halted core changes nothing, and its tone output is inactive (the spec's decisions D1, D18). -/
def Obligations.HaltedCoreChangesNothing : Prop :=
  ∀ (s : State) (f : Fault), s.fault = some f → step s = .next s ∧ s.toneActive = false

/-- A fetch with a byte outside memory raises FETCH_OUT_OF_RANGE and changes nothing else: pc > 0xFFE (the
spec's decision D5). -/
def Obligations.FetchOutsideMemoryRaises : Prop :=
  ∀ s : State, s.Running → 0xFFE < s.pc.toNat → step s = .next { s with fault := some .fetchOutOfRange }

/-- A step that raises a fault leaves the state at its start in every item but the latch: pc not advanced, no
register, byte, pixel or stack entry changed, no timer ticked (the spec's decision D18). -/
def Obligations.FaultingStepChangesOnlyTheLatch : Prop :=
  ∀ (s t : State) (f : Fault), s.Running → step s = .next t → t.fault = some f →
    t = { s with fault := some f }

/-- A step of a running core raises a fault exactly when the table of faults says so, on the state at the start
of the step, and then that fault; so at most one condition can hold (the spec's decisions D3 to D6, D8, D23).
The premise is R37 (d), an invariant of the model. -/
def Obligations.FaultsExactlyWhenTheTableSays : Prop :=
  ∀ (s t : State) (f : Fault), s.Running → s.stack.length ≤ s.params.stackDepth → step s = .next t →
    (t.fault = some f ↔ s.faultCondition f)

/-- R126, R204: the tick runs in every completed step, after the instruction: each timer ends at what the
instruction left less 1, not below 0, and only FX15 and FX18 give it another value first. -/
def Obligations.TickFollowsTheInstruction : Prop :=
  ∀ s t : State, s.Running → step s = .next t → t.Running →
    (∀ x, s.Selects (.sdt x) → t.dt.toNat = (s.reg x).toNat - 1) ∧
    ((∀ x, ¬s.Selects (.sdt x)) → t.dt.toNat = s.dt.toNat - 1) ∧
    (∀ x, s.Selects (.sst x) → t.st.toNat = (s.reg x).toNat - 1) ∧
    ((∀ x, ¬s.Selects (.sst x)) → t.st.toNat = s.st.toNat - 1)

/-- The tone output after a step of a running core is active exactly when the step completed and ST is nonzero
after its tick; after FX18 exactly when VX was at least 2 (R127, R130 (c); inactive after a fault by D18;
log 9). -/
def Obligations.ToneFollowsTheSoundTimer : Prop :=
  ∀ s t : State, s.Running → step s = .next t →
    (t.toneActive = true ↔ t.fault = none ∧ t.st.toNat ≠ 0) ∧
    (∀ x, s.Selects (.sst x) → (t.toneActive = true ↔ 2 ≤ (s.reg x).toNat))

/-- Which steps can change what: memory only FX33 and FX55, I only ANNN, FX1E and FX29, the call stack only
2NNN and 00EE, the framebuffer only 00E0 and DXYN, the keys none (R20, R23, R28, R29); the model's parameters
none, its draw counter only CXNN (log 1, log 2). -/
def Obligations.OnlyTheListedInstructionsWrite : Prop :=
  ∀ s t : State, step s = .next t →
    (t.mem ≠ s.mem → ∃ x, s.Selects (.bcd x) ∨ s.Selects (.stm x)) ∧
    (t.i ≠ s.i → (∃ nnn, s.Selects (.ldx nnn)) ∨ ∃ x, s.Selects (.addx x) ∨ s.Selects (.font x)) ∧
    (t.stack ≠ s.stack → s.Selects .ret ∨ ∃ nnn, s.Selects (.call nnn)) ∧
    (t.fb ≠ s.fb → s.Selects .cls ∨ ∃ x y n, s.Selects (.drw x y n)) ∧
    t.key = s.key ∧ t.params = s.params ∧
    (t.draws ≠ s.draws → ∃ x nn, s.Selects (.rnd x nn))

/-- An instruction changes a general register only as its result, or VF as one of the six that write the flag
(R20, R22). -/
def Obligations.OnlySixInstructionsWriteTheFlag : Prop :=
  ∀ (i : Instr) (s t : State) (r : Reg), exec i s = .next t → t.reg r ≠ s.reg r →
    writesResult r i ∨ (r = vf ∧ writesFlag i)

/-! ### Invariants and reset (10_state.md R34, R37) -/

/-- The invariants of R37, with the canonical form of memory and the parameters' condition, hold in whatever
state a step answers when they hold before it. -/
def Obligations.EveryStepKeepsTheInvariant : Prop :=
  ∀ s t : State, s.Inv → step s = .next t → t.Inv

/-- The invariant holds after reset, for every choice of the OPEN parameters that R4 allows and for the
defaults (log 2, log 3). -/
def Obligations.ResetMeetsTheInvariant : Prop :=
  (∀ p : Config.Params, p.valid = true → (State.resetWith p).Inv) ∧ State.reset.Inv

/-- Every host operation, and so every execution of steps and host operations, keeps the invariant (R211 to
R219). -/
def Obligations.EveryExecutionKeepsTheInvariant : Prop :=
  ∀ (es : List HostEvent) (s t : State), s.Inv → runEvents es s = .next t → t.Inv

/-- What reset leaves (R34), for every FONT and STACK_DEPTH: FONT at 0x050 to 0x09F and 0x00 at every other
address, all registers, I and timers 0, pc 0x200, stack empty, no pixel set, no key pressed, no fault (the
latch is the spec's decision D1). -/
def Obligations.ResetLeavesTheConstructionState : Prop :=
  ∀ p : Config.Params,
    (∀ (d : Fin 16) (k : Fin 5), (State.resetWith p).mem.read (0x050 + 5 * d.val + k.val) = p.font[d][k]) ∧
    (∀ a, a < 0x050 ∨ 0x09F < a → (State.resetWith p).mem.read a = 0) ∧
    (∀ r, (State.resetWith p).reg r = 0) ∧
    (State.resetWith p).i = 0 ∧ (State.resetWith p).pc = 0x0200 ∧ (State.resetWith p).stack = [] ∧
    (State.resetWith p).dt = 0 ∧ (State.resetWith p).st = 0 ∧
    (∀ py px, (State.resetWith p).fb.pixel py px = false) ∧
    (∀ k, (State.resetWith p).pressed k = false) ∧
    (State.resetWith p).fault = none ∧ (State.resetWith p).params = p

/-! ### Control transfer (41_flow.md) -/

/-- R141: 1NNN replaces pc by NNN, zero-extended, and changes nothing else; every word of family 1 is it. -/
def Obligations.JumpSetsThePc : Prop :=
  (∀ w : Word, w &&& 0xF000#16 = 0x1000#16 → decode w = .ok (.jp (fieldNNN w))) ∧
  ∀ (nnn : Addr) (s : State), ∃ pc, exec (.jp nnn) s = .next { s with pc := pc } ∧ pc.toNat = nnn.toNat

/-- BXNN replaces pc by NNN + V[X], not reduced (the spec's decision D22), X being the top nibble of NNN. -/
def Obligations.OffsetJumpAddsVx : Prop :=
  (∀ w : Word, w &&& 0xF000#16 = 0xB000#16 → ∃ x nnn, decode w = .ok (.jpx x nnn) ∧
    nnn.toNat = w.toNat % 4096 ∧ x.val = w.toNat / 256 % 16) ∧
  ∀ (x : Reg) (nnn : Addr) (s : State), ∃ pc, exec (.jpx x nnn) s = .next { s with pc := pc } ∧
    pc.toNat = nnn.toNat + (s.reg x).toNat

/-- 2NNN pushes the pc it finds (the address after the CALL) and jumps to NNN while the stack holds fewer than
STACK_DEPTH entries; with STACK_DEPTH entries it raises STACK_OVERFLOW (the spec's decision D3). -/
def Obligations.CallPushesTheAdvancedPc : Prop :=
  ∀ (nnn : Addr) (s : State),
    (s.stack.length < s.params.stackDepth →
      ∃ pc, exec (.call nnn) s = .next { s with stack := s.stack ++ [s.pc], pc := pc } ∧
        pc.toNat = nnn.toNat) ∧
    (s.stack.length = s.params.stackDepth →
      exec (.call nnn) s = .next { s with fault := some .stackOverflow })

/-- 00EE pops the most recently pushed address into pc, as it is; on an empty stack it raises STACK_UNDERFLOW
(the spec's decision D4). -/
def Obligations.ReturnPopsTheLastPushed : Prop :=
  ∀ s : State,
    (∀ rest a, s.stack = rest ++ [a] → exec .ret s = .next { s with stack := rest, pc := a }) ∧
    (s.stack = [] → exec .ret s = .next { s with fault := some .stackUnderflow })

/-- A RET executed with the stack a completed CALL left comes back to the word after the CALL and leaves the
stack as it was before the CALL (R123 (a), R140, R142), over whole steps. -/
def Obligations.ReturnComesBackAfterTheCall : Prop :=
  ∀ (nnn : Addr) (s t u : State), s.Running → s.Selects (.call nnn) → step s = .next t → t.Running →
    u.Running → u.Selects .ret → u.stack = t.stack →
    ∃ v, step u = .next v ∧ v.Running ∧ v.stack = s.stack ∧ v.pc.toNat = s.pc.toNat + 2

/-! ### Skips (42_skips.md) -/

/-- R151, R152: 3XNN skips exactly when VX = NN, 4XNN exactly when VX differs from NN; nothing else changes. -/
def Obligations.ImmediateSkips : Prop :=
  (∀ w : Word, w &&& 0xF000#16 = 0x3000#16 → decode w = .ok (.sei (fieldX w) (fieldNN w))) ∧
  (∀ w : Word, w &&& 0xF000#16 = 0x4000#16 → decode w = .ok (.snei (fieldX w) (fieldNN w))) ∧
  ∀ (x : Reg) (nn : Byte) (s : State),
    exec (.sei x nn) s = .next { s with pc := if s.reg x = nn then s.pc + 2 else s.pc } ∧
    exec (.snei x nn) s = .next { s with pc := if s.reg x = nn then s.pc else s.pc + 2 }

/-- R153, R154: 5XY_ skips exactly when VX = VY, 9XY_ exactly when they differ, whatever the low nibble. -/
def Obligations.RegisterSkips : Prop :=
  (∀ w : Word, w &&& 0xF000#16 = 0x5000#16 → decode w = .ok (.ser (fieldX w) (fieldY w) (fieldN w))) ∧
  (∀ w : Word, w &&& 0xF000#16 = 0x9000#16 → decode w = .ok (.sner (fieldX w) (fieldY w) (fieldN w))) ∧
  ∀ (x y : Reg) (n : Nibble) (s : State),
    exec (.ser x y n) s = .next { s with pc := if s.reg x = s.reg y then s.pc + 2 else s.pc } ∧
    exec (.sner x y n) s = .next { s with pc := if s.reg x = s.reg y then s.pc else s.pc + 2 }

/-- EX9E skips exactly when the key VX names is pressed, EXA1 exactly when it is not; with VX above 15 both
raise KEY_INDEX_OUT_OF_RANGE (the spec's decision D8). -/
def Obligations.KeySkips : Prop :=
  ∀ (x : Reg) (s : State),
    (∀ k : Reg, (s.reg x).toNat = k.val →
      exec (.skp x) s = .next { s with pc := if s.key[k] = true then s.pc + 2 else s.pc } ∧
      exec (.sknp x) s = .next { s with pc := if s.key[k] = true then s.pc else s.pc + 2 }) ∧
    (15 < (s.reg x).toNat →
      exec (.skp x) s = .next { s with fault := some .keyIndexOutOfRange } ∧
      exec (.sknp x) s = .next { s with fault := some .keyIndexOutOfRange })

/-- R150: after the whole step of a skip at address a, pc is a + 4 if it is taken and a + 2 if not; the step
writes no register and no flag and does not touch the stack. -/
def Obligations.SkipPassesOverOneWord : Prop :=
  ∀ (s : State) (i : Instr) (taken : Bool), s.Running → s.Selects i → s.skipTaken i = some taken →
    ∃ pc dt st, step s = .next { s with pc := pc, dt := dt, st := st } ∧
      pc.toNat = s.pc.toNat + (if taken then 4 else 2) ∧
      dt.toNat = s.dt.toNat - 1 ∧ st.toNat = s.st.toNat - 1

/-! ### Register loads and the ALU (43_alu.md) -/

/-- R160, R161: 6XNN loads NN; 7XNN adds NN modulo 256 and sets no flag. -/
def Obligations.LoadAndAddImmediate : Prop :=
  (∀ w : Word, w &&& 0xF000#16 = 0x6000#16 → decode w = .ok (.ldi (fieldX w) (fieldNN w))) ∧
  (∀ w : Word, w &&& 0xF000#16 = 0x7000#16 → decode w = .ok (.addi (fieldX w) (fieldNN w))) ∧
  ∀ (x : Reg) (nn : Byte) (s : State),
    (∃ v, exec (.ldi x nn) s = .next { s with v := v } ∧ ∀ r, v[r] = if r = x then nn else s.v[r]) ∧
    (∃ v, exec (.addi x nn) s = .next { s with v := v } ∧
      v[x].toNat = (s.v[x].toNat + nn.toNat) % 256 ∧ ∀ r, r ≠ x → v[r] = s.v[r])

/-- R162 to R165: 8XY0 copies, 8XY1, 8XY2 and 8XY3 combine bitwise; VF is left alone unless X = F. -/
def Obligations.CopyAndLogic : Prop :=
  (∀ w : Word,
    (w &&& 0xF00F#16 = 0x8000#16 → decode w = .ok (.mov (fieldX w) (fieldY w))) ∧
    (w &&& 0xF00F#16 = 0x8001#16 → decode w = .ok (.or (fieldX w) (fieldY w))) ∧
    (w &&& 0xF00F#16 = 0x8002#16 → decode w = .ok (.and (fieldX w) (fieldY w))) ∧
    (w &&& 0xF00F#16 = 0x8003#16 → decode w = .ok (.xor (fieldX w) (fieldY w)))) ∧
  ∀ (x y : Reg) (s : State),
    (∃ v, exec (.mov x y) s = .next { s with v := v } ∧ ∀ r, v[r] = if r = x then s.v[y] else s.v[r]) ∧
    (∃ v, exec (.or x y) s = .next { s with v := v } ∧ (∀ r, r ≠ x → v[r] = s.v[r]) ∧
      ∀ k, v[x].getLsbD k = (s.v[x].getLsbD k || s.v[y].getLsbD k)) ∧
    (∃ v, exec (.and x y) s = .next { s with v := v } ∧ (∀ r, r ≠ x → v[r] = s.v[r]) ∧
      ∀ k, v[x].getLsbD k = (s.v[x].getLsbD k && s.v[y].getLsbD k)) ∧
    (∃ v, exec (.xor x y) s = .next { s with v := v } ∧ (∀ r, r ≠ x → v[r] = s.v[r]) ∧
      ∀ k, v[x].getLsbD k = (s.v[x].getLsbD k ^^ s.v[y].getLsbD k))

/-- 8XY4: VX is the sum modulo 256 and VF the carry, from operands read before any write; for X = F the carry
stays (R166, R172; the order is the spec's decision D11, log 13). -/
def Obligations.AddWritesSumAndCarry : Prop :=
  ∀ (x y : Reg) (s : State), ∃ v, exec (.add x y) s = .next { s with v := v } ∧
    v[vf].toNat = (if 255 < s.v[x].toNat + s.v[y].toNat then 1 else 0) ∧
    (x ≠ vf → v[x].toNat = (s.v[x].toNat + s.v[y].toNat) % 256) ∧
    (∀ r, r ≠ x → r ≠ vf → v[r] = s.v[r])

/-- 8XY5 and 8XY7: VX is the difference modulo 256 and VF is 1 exactly when the minuend is strictly greater,
from operands read before any write; for X = F the difference stays (R167, R169, R172; D11, log 13). -/
def Obligations.SubtractWritesDifferenceAndFlag : Prop :=
  ∀ (x y : Reg) (s : State),
    (∃ v, exec (.sub x y) s = .next { s with v := v } ∧
      v[x].toNat = (s.v[x].toNat + 256 - s.v[y].toNat) % 256 ∧
      (x ≠ vf → v[vf].toNat = (if s.v[y].toNat < s.v[x].toNat then 1 else 0)) ∧
      (∀ r, r ≠ x → r ≠ vf → v[r] = s.v[r])) ∧
    (∃ v, exec (.subn x y) s = .next { s with v := v } ∧
      v[x].toNat = (s.v[y].toNat + 256 - s.v[x].toNat) % 256 ∧
      (x ≠ vf → v[vf].toNat = (if s.v[x].toNat < s.v[y].toNat then 1 else 0)) ∧
      (∀ r, r ≠ x → r ≠ vf → v[r] = s.v[r]))

/-- 8XY6 and 8XYE: VX shifted by one place and VF the bit shifted out, Y ignored; for X = F the shifted value
stays (R168, R170, R172; D11, log 13). -/
def Obligations.ShiftsWriteResultAndBitOut : Prop :=
  ∀ (x y : Reg) (s : State),
    (∃ v, exec (.shr x y) s = .next { s with v := v } ∧ v[x].toNat = s.v[x].toNat / 2 ∧
      (x ≠ vf → v[vf].toNat = s.v[x].toNat % 2) ∧ (∀ r, r ≠ x → r ≠ vf → v[r] = s.v[r])) ∧
    (∃ v, exec (.shl x y) s = .next { s with v := v } ∧ v[x].toNat = s.v[x].toNat * 2 % 256 ∧
      (x ≠ vf → v[vf].toNat = s.v[x].toNat / 128) ∧ (∀ r, r ≠ x → r ≠ vf → v[r] = s.v[r]))

/-- CXNN: VX is the random byte of this draw AND NN, and the draw counter moves on by 1, so that the next CXNN has
the next byte; so VX has no bit outside NN and is at most NN (R171; the byte is a free value with no body, D13,
log 1, and nothing is said of it). -/
def Obligations.RandomIsMaskedByNn : Prop :=
  ∀ (x : Reg) (nn : Byte) (s : State), ∃ v : Registers,
    exec (.rnd x nn) s = .next { s with v := v, draws := s.draws + 1 } ∧
    (∀ r, v[r] = if r = x then Config.rnd s.draws &&& nn else s.v[r]) ∧
    (∀ k, nn.getLsbD k = false → v[x].getLsbD k = false) ∧ v[x].toNat ≤ nn.toNat

/-! ### Index register and memory (44_index_memory.md) -/

/-- R180, R182: ANNN loads NNN into I; FX29 the address of the glyph of the low nibble of VX. -/
def Obligations.LoadIndexAndGlyphAddress : Prop :=
  (∀ w : Word, w &&& 0xF000#16 = 0xA000#16 → decode w = .ok (.ldx (fieldNNN w))) ∧
  (∀ w : Word, w &&& 0xF0FF#16 = 0xF029#16 → decode w = .ok (.font (fieldX w))) ∧
  (∀ (nnn : Addr) (s : State), ∃ i, exec (.ldx nnn) s = .next { s with i := i } ∧ i.toNat = nnn.toNat) ∧
  (∀ (x : Reg) (s : State), ∃ i, exec (.font x) s = .next { s with i := i } ∧
    i.toNat = 0x050 + (s.reg x).toNat % 16 * 5)

/-- FX1E adds VX to I, no flag, modulo 65536 (the reduction is the spec's decision D7, log 15). -/
def Obligations.AddToIndexSetsNoFlag : Prop :=
  ∀ (x : Reg) (s : State), ∃ i, exec (.addx x) s = .next { s with i := i } ∧
    i.toNat = (s.i.toNat + (s.reg x).toNat) % 65536

/-- FX33 stores the hundreds, tens and ones of VX at I, I+1, I+2 when they lie in memory, and every other byte
and field keeps its value (R183; I unchanged by D14). -/
def Obligations.BcdStoresTheDecimalDigits : Prop :=
  ∀ (x : Reg) (s : State), s.i.toNat + 2 ≤ 0xFFF → ∃ m, exec (.bcd x) s = .next { s with mem := m } ∧
    (m.read s.i.toNat).toNat = (s.reg x).toNat / 100 ∧
    (m.read (s.i.toNat + 1)).toNat = (s.reg x).toNat / 10 % 10 ∧
    (m.read (s.i.toNat + 2)).toNat = (s.reg x).toNat % 10 ∧
    (∀ a, a < s.i.toNat ∨ s.i.toNat + 2 < a → m.read a = s.mem.read a)

/-- FX55 stores V0 to VX at I to I + X when they lie in memory, V0 lowest; every other byte and field keeps its
value, I included (R184; D14). -/
def Obligations.StoreRegistersWritesV0ToVx : Prop :=
  ∀ (x : Reg) (s : State), s.i.toNat + x.val ≤ 0xFFF → ∃ m, exec (.stm x) s = .next { s with mem := m } ∧
    (∀ r : Reg, r ≤ x → m.read (s.i.toNat + r.val) = s.reg r) ∧
    (∀ a, a < s.i.toNat ∨ s.i.toNat + x.val < a → m.read a = s.mem.read a)

/-- FX65 loads V0 to VX from I to I + X when they lie in memory; registers above VX and every other field keep
their values (R185; D14). -/
def Obligations.LoadRegistersReadsV0ToVx : Prop :=
  ∀ (x : Reg) (s : State), s.i.toNat + x.val ≤ 0xFFF → ∃ v, exec (.ldm x) s = .next { s with v := v } ∧
    ∀ r : Reg, v[r] = if r ≤ x then s.mem.read (s.i.toNat + r.val) else s.v[r]

/-- A memory instruction any of whose addresses is above 0xFFF raises MEM_OUT_OF_RANGE before any change: FX33,
FX55, FX65 and DXYN, the row a clipped draw reads before its clip included (the spec's decisions D6, D23). -/
def Obligations.OutOfRangeAccessRaises : Prop :=
  (∀ (x : Reg) (s : State), 0xFFF < s.i.toNat + 2 →
    exec (.bcd x) s = .next { s with fault := some .memOutOfRange }) ∧
  (∀ (x : Reg) (s : State), 0xFFF < s.i.toNat + x.val →
    exec (.stm x) s = .next { s with fault := some .memOutOfRange } ∧
    exec (.ldm x) s = .next { s with fault := some .memOutOfRange }) ∧
  (∀ (x y : Reg) (n : Nibble) (s : State), 0 < n.toNat →
    0xFFF < s.i.toNat + min (n.toNat - 1) (32 - (s.reg y).toNat % 32) →
    exec (.drw x y n) s = .next { s with fault := some .memOutOfRange })

/-- Registers dumped by a completed FX55 and loaded back by FX65 with the same I, X and memory are the dumped
ones, whatever happened to the registers in between (R184, R185). -/
def Obligations.LoadRestoresStoredRegisters : Prop :=
  ∀ (x : Reg) (s t u : State), s.i.toNat + x.val ≤ 0xFFF → exec (.stm x) s = .next t →
    u.mem = t.mem → u.i = s.i →
    ∃ v, exec (.ldm x) u = .next { u with v := v } ∧ ∀ r : Reg, v[r] = if r ≤ x then s.reg r else u.v[r]

/-- The source's BCD property (95_test_vectors.md S6): FX33 followed by an FX65 of three registers yields the
decimal digits of the byte, which make it up again. -/
def Obligations.BcdDigitsMakeTheByte : Prop :=
  ∀ (x : Reg) (s t : State), s.i.toNat + 2 ≤ 0xFFF → exec (.bcd x) s = .next t →
    ∃ u, exec (.ldm 2) t = .next u ∧
      100 * (u.reg 0).toNat + 10 * (u.reg 1).toNat + (u.reg 2).toNat = (s.reg x).toNat ∧
      (u.reg 0).toNat ≤ 2 ∧ (u.reg 1).toNat ≤ 9 ∧ (u.reg 2).toNat ≤ 9

/-- The source's font property (95_test_vectors.md S7), over a whole step and for every FONT: a step of FX29 with
the digit A in the low nibble of VX sets I to 0x082, and there the font of reset memory holds F0 90 F0 90 90. The
premise is that the font region still is as reset left it. -/
def Obligations.GlyphAIsFoundAfterReset : Prop :=
  ∀ (p : Config.Params) (x : Reg) (s : State), p.valid = true → s.Running → s.Selects (.font x) →
    (∀ a, 0x050 ≤ a → a ≤ 0x09F → s.mem.read a = (State.resetWith p).mem.read a) →
    (s.reg x).toNat % 16 = 0xA →
    ∃ t, step s = .next t ∧ t.Running ∧ t.i = 0x082 ∧
      t.mem.read t.i.toNat = 0xF0 ∧ t.mem.read (t.i.toNat + 1) = 0x90 ∧ t.mem.read (t.i.toNat + 2) = 0xF0 ∧
      t.mem.read (t.i.toNat + 3) = 0x90 ∧ t.mem.read (t.i.toNat + 4) = 0x90

/-- A store is seen by the very next fetch: after a completed step of FX55 or FX33 the next word has the stored
byte, a register or a decimal digit, as its high byte where pc is its address and as its low byte where pc + 1 is
(R69, R72, R266). -/
def Obligations.StoreIsSeenByTheNextFetch : Prop :=
  ∀ (s t : State) (a b : Nat), s.Running → s.StoresByte a b → step s = .next t → t.Running →
    (t.pc.toNat = a → a ≤ 0xFFE → ∃ w, t.fetch = some w ∧ w.toNat / 256 = b) ∧
    (t.pc.toNat + 1 = a → ∃ w, t.fetch = some w ∧ w.toNat % 256 = b)

/-! ### Display (45_display.md) -/

/-- R190: 00E0 makes every pixel false and changes nothing else, VF included, as the host's clearDisplay does. -/
def Obligations.ClearMakesEveryPixelFalse : Prop :=
  (∀ w : Word, w = 0x00E0#16 → decode w = .ok .cls) ∧
  ∀ s : State,
    (∃ fb, exec .cls s = .next { s with fb := fb } ∧ ∀ py px, fb.pixel py px = false) ∧
    exec .cls s = applyEvent .clearDisplay s

/-- DXYN, when no byte it reads lies outside memory: each pixel is XORed with the unclipped sprite bit that
falls on it; VF is 1 if such a bit fell on a true pixel and 0 otherwise; nothing else changes. The origin comes
from the registers before VF is written (R191, R192, R193 (b), (c), (d); D12, D23, log 14). -/
def Obligations.DrawTogglesExactlyTheSpriteBits : Prop :=
  ∀ (x y : Reg) (n : Nibble) (s : State),
    (n.toNat = 0 ∨ s.i.toNat + min (n.toNat - 1) (32 - (s.reg y).toNat % 32) ≤ 0xFFF) →
    ∃ fb v, exec (.drw x y n) s = .next { s with fb := fb, v := v } ∧
      (∀ py px, fb.pixel py px = (s.fb.pixel py px ^^ s.spritePixel x y n.toNat py px)) ∧
      ((∃ py px, s.spritePixel x y n.toNat py px = true ∧ s.fb.pixel py px = true) → v[vf] = 1) ∧
      ((∀ py px, s.spritePixel x y n.toNat py px = true → s.fb.pixel py px = false) → v[vf] = 0) ∧
      (∀ r, r ≠ vf → v[r] = s.v[r])

/-- R194: with N = 0 the draw sets VF to 0 and does nothing else, whatever I is. -/
def Obligations.DrawOfNoRowsClearsTheFlag : Prop :=
  ∀ (x y : Reg) (s : State), ∃ v, exec (.drw x y 0) s = .next { s with v := v } ∧
    ∀ r, v[r] = if r = vf then 0 else s.v[r]

/-- The source's draw idempotence (R193 (a), C6): two completed draws of the same sprite at the same place with
no other framebuffer write between give the framebuffer back, and VF after the second is 1 exactly when the
first turned a pixel from false to true. X and Y are not F, since the first draw writes VF. -/
def Obligations.DrawingTwiceRestoresTheScreen : Prop :=
  ∀ (x y : Reg) (n : Nibble) (s t u : State), x ≠ vf → y ≠ vf → s.Running →
    exec (.drw x y n) s = .next t → t.Running →
    u.mem = t.mem → u.i = t.i → u.reg x = t.reg x → u.reg y = t.reg y → u.fb = t.fb → u.Running →
    ∃ w, exec (.drw x y n) u = .next w ∧ w.Running ∧ w.fb = s.fb ∧
      (w.reg vf = 1 ↔ ∃ py px, s.fb.pixel py px = false ∧ t.fb.pixel py px = true) ∧
      (w.reg vf = 0 ↔ ¬∃ py px, s.fb.pixel py px = false ∧ t.fb.pixel py px = true)

/-- The source's clipping property (95_test_vectors.md S4): a draw with origin column 60 changes only pixels of
columns 60 to 63, on which sprite columns 0 to 3 fall, with no wrap to column 0: a pixel it changes has sprite bit
1 at its place, bit 7 being sprite column 0, and a completed draw changes every such pixel. -/
def Obligations.DrawAtColumn60DoesNotWrap : Prop :=
  ∀ (x y : Reg) (n : Nibble) (s t : State), (s.reg x).toNat % 64 = 60 → exec (.drw x y n) s = .next t →
    (∀ py px, t.fb.pixel py px ≠ s.fb.pixel py px → ∃ r c, r < n.toNat ∧ c < 4 ∧
      py = (s.reg y).toNat % 32 + r ∧ py < 32 ∧ px = 60 + c ∧
      (s.mem.read (s.i.toNat + r)).getLsbD (7 - c) = true) ∧
    (t.fault = none → ∀ r c, r < n.toNat → c < 4 → (s.reg y).toNat % 32 + r < 32 →
      (s.mem.read (s.i.toNat + r)).getLsbD (7 - c) = true →
      t.fb.pixel ((s.reg y).toNat % 32 + r) (60 + c) ≠ s.fb.pixel ((s.reg y).toNat % 32 + r) (60 + c))

/-! ### Timers and the key wait (46_timers_keys.md) -/

/-- R200, R201, R202: FX07 copies DT to VX, FX15 and FX18 set DT and ST from VX; nothing else changes. -/
def Obligations.TimerTransfers : Prop :=
  (∀ w : Word,
    (w &&& 0xF0FF#16 = 0xF007#16 → decode w = .ok (.gdt (fieldX w))) ∧
    (w &&& 0xF0FF#16 = 0xF015#16 → decode w = .ok (.sdt (fieldX w))) ∧
    (w &&& 0xF0FF#16 = 0xF018#16 → decode w = .ok (.sst (fieldX w)))) ∧
  ∀ (x : Reg) (s : State),
    (∃ v, exec (.gdt x) s = .next { s with v := v } ∧ ∀ r, v[r] = if r = x then s.dt else s.v[r]) ∧
    exec (.sdt x) s = .next { s with dt := s.v[x] } ∧
    exec (.sst x) s = .next { s with st := s.v[x] }

/-- R203: FX0A with a key pressed stores the least pressed index in VX; with none it takes pc back by 2 and
changes nothing else. -/
def Obligations.KeyWaitTakesTheLowestKey : Prop :=
  (∀ w : Word, w &&& 0xF0FF#16 = 0xF00A#16 → decode w = .ok (.wkey (fieldX w))) ∧
  ∀ (x : Reg) (s : State),
    (∀ k : Reg, s.key[k] = true → (∀ j : Reg, j < k → s.key[j] = false) →
      ∃ v, exec (.wkey x) s = .next { s with v := v } ∧
        v[x].toNat = k.val ∧ ∀ r, r ≠ x → v[r] = s.v[r]) ∧
    ((∀ k : Reg, s.key[k] = false) → exec (.wkey x) s = .next { s with pc := s.pc - 2 })

/-- The source's key-wait property (95_test_vectors.md S8) over a whole step: with no key pressed FX0A leaves
pc, every register and everything else but the timers as they were, and the timers tick. -/
def Obligations.KeyWaitSpinsInPlace : Prop :=
  ∀ (x : Reg) (s : State), s.Running → s.Selects (.wkey x) → (∀ k : Reg, s.key[k] = false) →
    ∃ dt st, step s = .next { s with dt := dt, st := st } ∧
      dt.toNat = s.dt.toNat - 1 ∧ st.toNat = s.st.toNat - 1

/-- FX07 reads DT before the tick of its own step (R130 (a)): VX gets the old DT and DT is then one less. -/
def Obligations.DelayTimerIsReadBeforeTheTick : Prop :=
  ∀ (x : Reg) (s t : State), s.Running → s.Selects (.gdt x) → step s = .next t →
    t.reg x = s.dt ∧ t.dt.toNat = s.dt.toNat - 1 ∧ t.pc.toNat = s.pc.toNat + 2

/-! ### Host operations (50_host_interface.md) -/

/-- `load` of at most 3584 bytes puts byte i at 0x200 + i and changes nothing else; a longer one fails and
leaves the machine unmodified, its latch too (R212, R244; at any time between steps by D21). -/
def Obligations.LoadCopiesTheProgram : Prop :=
  ∀ (bytes : List Byte) (s : State),
    (bytes.length ≤ 3584 → ∃ m, s.load bytes = some { s with mem := m } ∧
      applyEvent (.load bytes) s = .next { s with mem := m } ∧
      (∀ k (h : k < bytes.length), m.read (0x200 + k) = bytes[k]) ∧
      (∀ a, a < 0x200 ∨ 0x200 + bytes.length ≤ a → m.read a = s.mem.read a)) ∧
    (3584 < bytes.length → s.load bytes = none ∧ applyEvent (.load bytes) s = .next s)

/-- setKey sets its slot and clearKeys releases all sixteen; clearDisplay makes every pixel false; none of them
changes anything else, on a halted core too (R213, R214, R232; the index range is D20). -/
def Obligations.KeyAndDisplayOperations : Prop :=
  ∀ s : State,
    (∀ (k : Reg) (b : Bool), ∃ key, applyEvent (.setKey k b) s = .next { s with key := key } ∧
      ∀ j : Reg, key[j] = if j = k then b else s.key[j]) ∧
    (∃ key, applyEvent .clearKeys s = .next { s with key := key } ∧ ∀ j : Reg, key[j] = false) ∧
    (∃ fb, applyEvent .clearDisplay s = .next { s with fb := fb } ∧ ∀ py px, fb.pixel py px = false)

/-- The host's reset gives the construction state of the same machine from any state, a halted one included,
and so clears the latch and restores the font; only the model's draw counter goes on (R211, R260, R261; D17,
log 10). -/
def Obligations.ResetGivesTheConstructionState : Prop :=
  ∀ s : State, applyEvent .reset s = .next { State.resetWith s.params with draws := s.draws }
end

