-- ==== Sys2Proof/Laws/Decode.lean ====
section
/-! SUPPORT. The fields of a word as numbers, the fields of the encoder's forms (30_encoding.md R91, R93), and
each word as the form its fields make. -/

namespace Sys2Proof

/-! ### Fields and forms as numbers -/

theorem toNat_append {m n : Nat} (a : BitVec m) (b : BitVec n) :
    (a ++ b).toNat = a.toNat * 2 ^ n + b.toNat := by
  rw [BitVec.toNat_append, ← Nat.shiftLeft_add_eq_or_of_lt b.isLt, Nat.shiftLeft_eq]

theorem toNat_slice (w : Word) (lo n : Nat) : (w.extractLsb' lo n).toNat = w.toNat / 2 ^ lo % 2 ^ n := by
  rw [BitVec.extractLsb'_toNat, Nat.shiftRight_eq_div_pow]

theorem toNat_opClass (w : Word) : (opClass w).toNat = w.toNat / 4096 % 16 := toNat_slice w 12 4
theorem val_fieldX (w : Word) : (fieldX w).val = w.toNat / 256 % 16 := toNat_slice w 8 4
theorem val_fieldY (w : Word) : (fieldY w).val = w.toNat / 16 % 16 := toNat_slice w 4 4
theorem toNat_fieldN (w : Word) : (fieldN w).toNat = w.toNat % 16 := by
  rw [fieldN, toNat_slice]; omega
theorem toNat_fieldNN (w : Word) : (fieldNN w).toNat = w.toNat % 256 := by
  rw [fieldNN, toNat_slice]; omega
theorem toNat_fieldNNN (w : Word) : (fieldNNN w).toNat = w.toNat % 4096 := by
  rw [fieldNNN, toNat_slice]; omega
theorem toNat_highByte (w : Word) : (highByte w).toNat = w.toNat / 256 % 256 := toNat_slice w 8 8
theorem toNat_lowByte (w : Word) : (lowByte w).toNat = w.toNat % 256 := by
  rw [lowByte, toNat_slice]; omega

theorem val_topNibble (nnn : Addr) : (Instr.topNibble nnn).val = nnn.toNat / 256 % 16 := by
  show (nnn.extractLsb' 8 4).toNat = _
  rw [BitVec.extractLsb'_toNat, Nat.shiftRight_eq_div_pow]

theorem toNat_wordOfBytes (hi lo : Byte) : (wordOfBytes hi lo).toNat = hi.toNat * 256 + lo.toNat :=
  toNat_append hi lo

theorem toNat_formAddr (c : Nibble) (nnn : Addr) : (formAddr c nnn).toNat = c.toNat * 4096 + nnn.toNat :=
  toNat_append c nnn

theorem toNat_formRegByte (c : Nibble) (x : Reg) (nn : Byte) :
    (formRegByte c x nn).toNat = c.toNat * 4096 + x.val * 256 + nn.toNat := by
  have h := toNat_append c (regBits x ++ nn)
  rw [toNat_append (regBits x) nn] at h
  have hx : (regBits x).toNat = x.val := rfl
  have : (formRegByte c x nn).toNat = (c ++ (regBits x ++ nn)).toNat := rfl
  omega

theorem toNat_formRegReg (c : Nibble) (x y : Reg) (n : Nibble) :
    (formRegReg c x y n).toNat = c.toNat * 4096 + x.val * 256 + y.val * 16 + n.toNat := by
  have h := toNat_append c (regBits x ++ (regBits y ++ n))
  rw [toNat_append (regBits x), toNat_append (regBits y)] at h
  have hx : (regBits x).toNat = x.val := rfl
  have hy : (regBits y).toNat = y.val := rfl
  have : (formRegReg c x y n).toNat = (c ++ (regBits x ++ (regBits y ++ n))).toNat := rfl
  omega

/-! ### The fields of a form -/

@[simp] theorem opClass_formAddr (c : Nibble) (nnn : Addr) : opClass (formAddr c nnn) = c := by
  apply BitVec.eq_of_toNat_eq
  rw [toNat_opClass, toNat_formAddr]; omega

@[simp] theorem fieldNNN_formAddr (c : Nibble) (nnn : Addr) : fieldNNN (formAddr c nnn) = nnn := by
  apply BitVec.eq_of_toNat_eq
  rw [toNat_fieldNNN, toNat_formAddr]; omega

@[simp] theorem fieldX_formAddr (c : Nibble) (nnn : Addr) : fieldX (formAddr c nnn) = Instr.topNibble nnn := by
  apply Fin.ext
  rw [val_fieldX, toNat_formAddr, val_topNibble]; omega

@[simp] theorem opClass_formRegByte (c : Nibble) (x : Reg) (nn : Byte) : opClass (formRegByte c x nn) = c := by
  apply BitVec.eq_of_toNat_eq
  rw [toNat_opClass, toNat_formRegByte]; omega

@[simp] theorem fieldX_formRegByte (c : Nibble) (x : Reg) (nn : Byte) : fieldX (formRegByte c x nn) = x := by
  apply Fin.ext
  rw [val_fieldX, toNat_formRegByte]; omega

@[simp] theorem fieldNN_formRegByte (c : Nibble) (x : Reg) (nn : Byte) : fieldNN (formRegByte c x nn) = nn := by
  apply BitVec.eq_of_toNat_eq
  rw [toNat_fieldNN, toNat_formRegByte]; omega

@[simp] theorem opClass_formRegReg (c : Nibble) (x y : Reg) (n : Nibble) :
    opClass (formRegReg c x y n) = c := by
  apply BitVec.eq_of_toNat_eq
  rw [toNat_opClass, toNat_formRegReg]; omega

@[simp] theorem fieldX_formRegReg (c : Nibble) (x y : Reg) (n : Nibble) : fieldX (formRegReg c x y n) = x := by
  apply Fin.ext
  rw [val_fieldX, toNat_formRegReg]; omega

@[simp] theorem fieldY_formRegReg (c : Nibble) (x y : Reg) (n : Nibble) : fieldY (formRegReg c x y n) = y := by
  apply Fin.ext
  rw [val_fieldY, toNat_formRegReg]; omega

@[simp] theorem fieldN_formRegReg (c : Nibble) (x y : Reg) (n : Nibble) : fieldN (formRegReg c x y n) = n := by
  apply BitVec.eq_of_toNat_eq
  rw [toNat_fieldN, toNat_formRegReg]; omega

/-! ### A word from its fields -/

theorem formAddr_fields (w : Word) : formAddr (opClass w) (fieldNNN w) = w := by
  apply BitVec.eq_of_toNat_eq
  rw [toNat_formAddr, toNat_opClass, toNat_fieldNNN]; omega

theorem formRegByte_fields (w : Word) : formRegByte (opClass w) (fieldX w) (fieldNN w) = w := by
  apply BitVec.eq_of_toNat_eq
  rw [toNat_formRegByte, toNat_opClass, val_fieldX, toNat_fieldNN]; omega

theorem formRegReg_fields (w : Word) : formRegReg (opClass w) (fieldX w) (fieldY w) (fieldN w) = w := by
  apply BitVec.eq_of_toNat_eq
  rw [toNat_formRegReg, toNat_opClass, val_fieldX, val_fieldY, toNat_fieldN]; omega

/-- BXNN's two fields agree in every word (R105). -/
theorem topNibble_fieldNNN (w : Word) : Instr.topNibble (fieldNNN w) = fieldX w := by
  apply Fin.ext
  rw [val_topNibble, toNat_fieldNNN, val_fieldX]; omega

/-- The two bytes of a word, high byte first, make the word again (R63). -/
@[simp] theorem wordOfBytes_highByte_lowByte (w : Word) : wordOfBytes (highByte w) (lowByte w) = w := by
  apply BitVec.eq_of_toNat_eq
  rw [toNat_wordOfBytes, toNat_highByte, toNat_lowByte]; omega

/-! ### Masks -/

theorem and_append_append {m n : Nat} (a b : BitVec m) (c d : BitVec n) :
    (a ++ c) &&& (b ++ d) = (a &&& b) ++ (c &&& d) := by
  ext k hk
  simp only [BitVec.getElem_and, BitVec.getElem_append]
  split <;> rfl

theorem and_fifteen (c : Nibble) : c &&& 15#4 = c := BitVec.and_allOnes

theorem and_255 (b : Byte) : b &&& 255#8 = b := BitVec.and_allOnes

/-- `w AND 0xF000` decides the class. -/
theorem and_F000 (w : Word) : w &&& 0xF000#16 = formAddr (opClass w) 0 := by
  conv_lhs => rw [← formAddr_fields w]
  generalize opClass w = c
  generalize fieldNNN w = n
  show (c ++ n) &&& ((0xF#4 : Nibble) ++ (0#12 : Addr)) = c ++ 0#12
  rw [and_append_append]
  simp [and_fifteen]

/-- `w AND 0xF00F` decides the class and N. -/
theorem and_F00F (w : Word) : w &&& 0xF00F#16 = formRegReg (opClass w) 0 0 (fieldN w) := by
  conv_lhs => rw [← formRegReg_fields w]
  generalize opClass w = c
  generalize fieldX w = x
  generalize fieldY w = y
  generalize fieldN w = n
  show (c ++ (regBits x ++ (regBits y ++ n))) &&& ((0xF#4 : Nibble) ++ (0#4 ++ (0#4 ++ 0xF#4))) =
    c ++ (0#4 ++ (0#4 ++ n))
  rw [and_append_append, and_append_append, and_append_append]
  simp [and_fifteen]

/-- `w AND 0xF0FF` decides the class and NN. -/
theorem and_F0FF (w : Word) : w &&& 0xF0FF#16 = formRegByte (opClass w) 0 (fieldNN w) := by
  conv_lhs => rw [← formRegByte_fields w]
  generalize opClass w = c
  generalize fieldX w = x
  generalize fieldNN w = n
  show (c ++ (regBits x ++ n)) &&& ((0xF#4 : Nibble) ++ (0#4 ++ 0xFF#8)) = c ++ (0#4 ++ n)
  rw [and_append_append, and_append_append]
  simp [and_fifteen, and_255]

/-- A word whose class the mask 0xF000 fixes has the pattern's class. -/
theorem opClass_of_and_F000 {w p : Word} (h : w &&& 0xF000#16 = p) : opClass w = opClass p := by
  rw [← h, and_F000, opClass_formAddr]

/-- A word whose class and N the mask 0xF00F fixes has the pattern's. -/
theorem fields_of_and_F00F {w p : Word} (h : w &&& 0xF00F#16 = p) :
    opClass w = opClass p ∧ fieldN w = fieldN p := by
  rw [← h, and_F00F, opClass_formRegReg, fieldN_formRegReg]; exact ⟨rfl, rfl⟩

/-- A word whose class and NN the mask 0xF0FF fixes has the pattern's. -/
theorem fields_of_and_F0FF {w p : Word} (h : w &&& 0xF0FF#16 = p) :
    opClass w = opClass p ∧ fieldNN w = fieldNN p := by
  rw [← h, and_F0FF, opClass_formRegByte, fieldNN_formRegByte]; exact ⟨rfl, rfl⟩

end Sys2Proof
end

