-- ==== Sys2Proof/Laws/State.lean ====
section
/-! SUPPORT. One lemma for each field of `State` after each named update, true by unfolding, so that no later
proof unfolds a record update. -/

namespace Sys2Proof.Machine

variable (s : State)

/-! `State.setReg` -/

@[simp] theorem State.setReg_mem (r : Reg) (b : Byte) : (s.setReg r b).mem = s.mem := rfl
@[simp] theorem State.setReg_v (r : Reg) (b : Byte) : (s.setReg r b).v = s.v.set r b := rfl
@[simp] theorem State.setReg_i (r : Reg) (b : Byte) : (s.setReg r b).i = s.i := rfl
@[simp] theorem State.setReg_pc (r : Reg) (b : Byte) : (s.setReg r b).pc = s.pc := rfl
@[simp] theorem State.setReg_stack (r : Reg) (b : Byte) : (s.setReg r b).stack = s.stack := rfl
@[simp] theorem State.setReg_dt (r : Reg) (b : Byte) : (s.setReg r b).dt = s.dt := rfl
@[simp] theorem State.setReg_st (r : Reg) (b : Byte) : (s.setReg r b).st = s.st := rfl
@[simp] theorem State.setReg_fb (r : Reg) (b : Byte) : (s.setReg r b).fb = s.fb := rfl
@[simp] theorem State.setReg_key (r : Reg) (b : Byte) : (s.setReg r b).key = s.key := rfl
@[simp] theorem State.setReg_fault (r : Reg) (b : Byte) : (s.setReg r b).fault = s.fault := rfl
@[simp] theorem State.setReg_params (r : Reg) (b : Byte) : (s.setReg r b).params = s.params := rfl
@[simp] theorem State.setReg_draws (r : Reg) (b : Byte) : (s.setReg r b).draws = s.draws := rfl

/-! `State.advance` -/

@[simp] theorem State.advance_mem : s.advance.mem = s.mem := rfl
@[simp] theorem State.advance_v : s.advance.v = s.v := rfl
@[simp] theorem State.advance_i : s.advance.i = s.i := rfl
@[simp] theorem State.advance_pc : s.advance.pc = s.pc + 2 := rfl
@[simp] theorem State.advance_stack : s.advance.stack = s.stack := rfl
@[simp] theorem State.advance_dt : s.advance.dt = s.dt := rfl
@[simp] theorem State.advance_st : s.advance.st = s.st := rfl
@[simp] theorem State.advance_fb : s.advance.fb = s.fb := rfl
@[simp] theorem State.advance_key : s.advance.key = s.key := rfl
@[simp] theorem State.advance_fault : s.advance.fault = s.fault := rfl
@[simp] theorem State.advance_params : s.advance.params = s.params := rfl
@[simp] theorem State.advance_draws : s.advance.draws = s.draws := rfl

/-! `State.jump` -/

@[simp] theorem State.jump_mem (w : Word) : (s.jump w).mem = s.mem := rfl
@[simp] theorem State.jump_v (w : Word) : (s.jump w).v = s.v := rfl
@[simp] theorem State.jump_i (w : Word) : (s.jump w).i = s.i := rfl
@[simp] theorem State.jump_pc (w : Word) : (s.jump w).pc = w := rfl
@[simp] theorem State.jump_stack (w : Word) : (s.jump w).stack = s.stack := rfl
@[simp] theorem State.jump_dt (w : Word) : (s.jump w).dt = s.dt := rfl
@[simp] theorem State.jump_st (w : Word) : (s.jump w).st = s.st := rfl
@[simp] theorem State.jump_fb (w : Word) : (s.jump w).fb = s.fb := rfl
@[simp] theorem State.jump_key (w : Word) : (s.jump w).key = s.key := rfl
@[simp] theorem State.jump_fault (w : Word) : (s.jump w).fault = s.fault := rfl
@[simp] theorem State.jump_params (w : Word) : (s.jump w).params = s.params := rfl
@[simp] theorem State.jump_draws (w : Word) : (s.jump w).draws = s.draws := rfl

/-! `State.skip` -/

@[simp] theorem State.skip_mem : s.skip.mem = s.mem := rfl
@[simp] theorem State.skip_v : s.skip.v = s.v := rfl
@[simp] theorem State.skip_i : s.skip.i = s.i := rfl
@[simp] theorem State.skip_pc : s.skip.pc = s.pc + 2 := rfl
@[simp] theorem State.skip_stack : s.skip.stack = s.stack := rfl
@[simp] theorem State.skip_dt : s.skip.dt = s.dt := rfl
@[simp] theorem State.skip_st : s.skip.st = s.st := rfl
@[simp] theorem State.skip_fb : s.skip.fb = s.fb := rfl
@[simp] theorem State.skip_key : s.skip.key = s.key := rfl
@[simp] theorem State.skip_fault : s.skip.fault = s.fault := rfl
@[simp] theorem State.skip_params : s.skip.params = s.params := rfl
@[simp] theorem State.skip_draws : s.skip.draws = s.draws := rfl

/-! `State.rewind` -/

@[simp] theorem State.rewind_mem : s.rewind.mem = s.mem := rfl
@[simp] theorem State.rewind_v : s.rewind.v = s.v := rfl
@[simp] theorem State.rewind_i : s.rewind.i = s.i := rfl
@[simp] theorem State.rewind_pc : s.rewind.pc = s.pc - 2 := rfl
@[simp] theorem State.rewind_stack : s.rewind.stack = s.stack := rfl
@[simp] theorem State.rewind_dt : s.rewind.dt = s.dt := rfl
@[simp] theorem State.rewind_st : s.rewind.st = s.st := rfl
@[simp] theorem State.rewind_fb : s.rewind.fb = s.fb := rfl
@[simp] theorem State.rewind_key : s.rewind.key = s.key := rfl
@[simp] theorem State.rewind_fault : s.rewind.fault = s.fault := rfl
@[simp] theorem State.rewind_params : s.rewind.params = s.params := rfl
@[simp] theorem State.rewind_draws : s.rewind.draws = s.draws := rfl

/-! `State.raise` -/

@[simp] theorem State.raise_mem (f : Fault) : (s.raise f).mem = s.mem := rfl
@[simp] theorem State.raise_v (f : Fault) : (s.raise f).v = s.v := rfl
@[simp] theorem State.raise_i (f : Fault) : (s.raise f).i = s.i := rfl
@[simp] theorem State.raise_pc (f : Fault) : (s.raise f).pc = s.pc := rfl
@[simp] theorem State.raise_stack (f : Fault) : (s.raise f).stack = s.stack := rfl
@[simp] theorem State.raise_dt (f : Fault) : (s.raise f).dt = s.dt := rfl
@[simp] theorem State.raise_st (f : Fault) : (s.raise f).st = s.st := rfl
@[simp] theorem State.raise_fb (f : Fault) : (s.raise f).fb = s.fb := rfl
@[simp] theorem State.raise_key (f : Fault) : (s.raise f).key = s.key := rfl
@[simp] theorem State.raise_fault (f : Fault) : (s.raise f).fault = some f := rfl
@[simp] theorem State.raise_params (f : Fault) : (s.raise f).params = s.params := rfl
@[simp] theorem State.raise_draws (f : Fault) : (s.raise f).draws = s.draws := rfl

/-! `State.push` -/

@[simp] theorem State.push_mem (a : Word) : (s.push a).mem = s.mem := rfl
@[simp] theorem State.push_v (a : Word) : (s.push a).v = s.v := rfl
@[simp] theorem State.push_i (a : Word) : (s.push a).i = s.i := rfl
@[simp] theorem State.push_pc (a : Word) : (s.push a).pc = s.pc := rfl
@[simp] theorem State.push_stack (a : Word) : (s.push a).stack = s.stack ++ [a] := rfl
@[simp] theorem State.push_dt (a : Word) : (s.push a).dt = s.dt := rfl
@[simp] theorem State.push_st (a : Word) : (s.push a).st = s.st := rfl
@[simp] theorem State.push_fb (a : Word) : (s.push a).fb = s.fb := rfl
@[simp] theorem State.push_key (a : Word) : (s.push a).key = s.key := rfl
@[simp] theorem State.push_fault (a : Word) : (s.push a).fault = s.fault := rfl
@[simp] theorem State.push_params (a : Word) : (s.push a).params = s.params := rfl
@[simp] theorem State.push_draws (a : Word) : (s.push a).draws = s.draws := rfl

/-! `State.dropTop` -/

@[simp] theorem State.dropTop_mem : s.dropTop.mem = s.mem := rfl
@[simp] theorem State.dropTop_v : s.dropTop.v = s.v := rfl
@[simp] theorem State.dropTop_i : s.dropTop.i = s.i := rfl
@[simp] theorem State.dropTop_pc : s.dropTop.pc = s.pc := rfl
@[simp] theorem State.dropTop_stack : s.dropTop.stack = s.stack.dropLast := rfl
@[simp] theorem State.dropTop_dt : s.dropTop.dt = s.dt := rfl
@[simp] theorem State.dropTop_st : s.dropTop.st = s.st := rfl
@[simp] theorem State.dropTop_fb : s.dropTop.fb = s.fb := rfl
@[simp] theorem State.dropTop_key : s.dropTop.key = s.key := rfl
@[simp] theorem State.dropTop_fault : s.dropTop.fault = s.fault := rfl
@[simp] theorem State.dropTop_params : s.dropTop.params = s.params := rfl
@[simp] theorem State.dropTop_draws : s.dropTop.draws = s.draws := rfl

/-! `State.tick` -/

@[simp] theorem State.tick_mem : s.tick.mem = s.mem := rfl
@[simp] theorem State.tick_v : s.tick.v = s.v := rfl
@[simp] theorem State.tick_i : s.tick.i = s.i := rfl
@[simp] theorem State.tick_pc : s.tick.pc = s.pc := rfl
@[simp] theorem State.tick_stack : s.tick.stack = s.stack := rfl
@[simp] theorem State.tick_dt : s.tick.dt = countDown s.dt := rfl
@[simp] theorem State.tick_st : s.tick.st = countDown s.st := rfl
@[simp] theorem State.tick_fb : s.tick.fb = s.fb := rfl
@[simp] theorem State.tick_key : s.tick.key = s.key := rfl
@[simp] theorem State.tick_fault : s.tick.fault = s.fault := rfl
@[simp] theorem State.tick_params : s.tick.params = s.params := rfl
@[simp] theorem State.tick_draws : s.tick.draws = s.draws := rfl

/-! `State.consumeRnd` -/

@[simp] theorem State.consumeRnd_mem : s.consumeRnd.mem = s.mem := rfl
@[simp] theorem State.consumeRnd_v : s.consumeRnd.v = s.v := rfl
@[simp] theorem State.consumeRnd_i : s.consumeRnd.i = s.i := rfl
@[simp] theorem State.consumeRnd_pc : s.consumeRnd.pc = s.pc := rfl
@[simp] theorem State.consumeRnd_stack : s.consumeRnd.stack = s.stack := rfl
@[simp] theorem State.consumeRnd_dt : s.consumeRnd.dt = s.dt := rfl
@[simp] theorem State.consumeRnd_st : s.consumeRnd.st = s.st := rfl
@[simp] theorem State.consumeRnd_fb : s.consumeRnd.fb = s.fb := rfl
@[simp] theorem State.consumeRnd_key : s.consumeRnd.key = s.key := rfl
@[simp] theorem State.consumeRnd_fault : s.consumeRnd.fault = s.fault := rfl
@[simp] theorem State.consumeRnd_params : s.consumeRnd.params = s.params := rfl
@[simp] theorem State.consumeRnd_draws : s.consumeRnd.draws = s.draws + 1 := rfl

/-! `State.setIndex` -/

@[simp] theorem State.setIndex_mem (w : Word) : (s.setIndex w).mem = s.mem := rfl
@[simp] theorem State.setIndex_v (w : Word) : (s.setIndex w).v = s.v := rfl
@[simp] theorem State.setIndex_i (w : Word) : (s.setIndex w).i = w := rfl
@[simp] theorem State.setIndex_pc (w : Word) : (s.setIndex w).pc = s.pc := rfl
@[simp] theorem State.setIndex_stack (w : Word) : (s.setIndex w).stack = s.stack := rfl
@[simp] theorem State.setIndex_dt (w : Word) : (s.setIndex w).dt = s.dt := rfl
@[simp] theorem State.setIndex_st (w : Word) : (s.setIndex w).st = s.st := rfl
@[simp] theorem State.setIndex_fb (w : Word) : (s.setIndex w).fb = s.fb := rfl
@[simp] theorem State.setIndex_key (w : Word) : (s.setIndex w).key = s.key := rfl
@[simp] theorem State.setIndex_fault (w : Word) : (s.setIndex w).fault = s.fault := rfl
@[simp] theorem State.setIndex_params (w : Word) : (s.setIndex w).params = s.params := rfl
@[simp] theorem State.setIndex_draws (w : Word) : (s.setIndex w).draws = s.draws := rfl

/-! `State.storeAtI` -/

@[simp] theorem State.storeAtI_mem (bs : List Byte) : (s.storeAtI bs).mem = s.mem.writeBytes (s.ea 0) bs := rfl
@[simp] theorem State.storeAtI_v (bs : List Byte) : (s.storeAtI bs).v = s.v := rfl
@[simp] theorem State.storeAtI_i (bs : List Byte) : (s.storeAtI bs).i = s.i := rfl
@[simp] theorem State.storeAtI_pc (bs : List Byte) : (s.storeAtI bs).pc = s.pc := rfl
@[simp] theorem State.storeAtI_stack (bs : List Byte) : (s.storeAtI bs).stack = s.stack := rfl
@[simp] theorem State.storeAtI_dt (bs : List Byte) : (s.storeAtI bs).dt = s.dt := rfl
@[simp] theorem State.storeAtI_st (bs : List Byte) : (s.storeAtI bs).st = s.st := rfl
@[simp] theorem State.storeAtI_fb (bs : List Byte) : (s.storeAtI bs).fb = s.fb := rfl
@[simp] theorem State.storeAtI_key (bs : List Byte) : (s.storeAtI bs).key = s.key := rfl
@[simp] theorem State.storeAtI_fault (bs : List Byte) : (s.storeAtI bs).fault = s.fault := rfl
@[simp] theorem State.storeAtI_params (bs : List Byte) : (s.storeAtI bs).params = s.params := rfl
@[simp] theorem State.storeAtI_draws (bs : List Byte) : (s.storeAtI bs).draws = s.draws := rfl

/-! `State.clearPixels` -/

@[simp] theorem State.clearPixels_mem : s.clearPixels.mem = s.mem := rfl
@[simp] theorem State.clearPixels_v : s.clearPixels.v = s.v := rfl
@[simp] theorem State.clearPixels_i : s.clearPixels.i = s.i := rfl
@[simp] theorem State.clearPixels_pc : s.clearPixels.pc = s.pc := rfl
@[simp] theorem State.clearPixels_stack : s.clearPixels.stack = s.stack := rfl
@[simp] theorem State.clearPixels_dt : s.clearPixels.dt = s.dt := rfl
@[simp] theorem State.clearPixels_st : s.clearPixels.st = s.st := rfl
@[simp] theorem State.clearPixels_fb : s.clearPixels.fb = Framebuffer.blank := rfl
@[simp] theorem State.clearPixels_key : s.clearPixels.key = s.key := rfl
@[simp] theorem State.clearPixels_fault : s.clearPixels.fault = s.fault := rfl
@[simp] theorem State.clearPixels_params : s.clearPixels.params = s.params := rfl
@[simp] theorem State.clearPixels_draws : s.clearPixels.draws = s.draws := rfl

/-! `State.setKey` -/

@[simp] theorem State.setKey_mem (k : Reg) (p : Bool) : (s.setKey k p).mem = s.mem := rfl
@[simp] theorem State.setKey_v (k : Reg) (p : Bool) : (s.setKey k p).v = s.v := rfl
@[simp] theorem State.setKey_i (k : Reg) (p : Bool) : (s.setKey k p).i = s.i := rfl
@[simp] theorem State.setKey_pc (k : Reg) (p : Bool) : (s.setKey k p).pc = s.pc := rfl
@[simp] theorem State.setKey_stack (k : Reg) (p : Bool) : (s.setKey k p).stack = s.stack := rfl
@[simp] theorem State.setKey_dt (k : Reg) (p : Bool) : (s.setKey k p).dt = s.dt := rfl
@[simp] theorem State.setKey_st (k : Reg) (p : Bool) : (s.setKey k p).st = s.st := rfl
@[simp] theorem State.setKey_fb (k : Reg) (p : Bool) : (s.setKey k p).fb = s.fb := rfl
@[simp] theorem State.setKey_key (k : Reg) (p : Bool) : (s.setKey k p).key = s.key.set k p := rfl
@[simp] theorem State.setKey_fault (k : Reg) (p : Bool) : (s.setKey k p).fault = s.fault := rfl
@[simp] theorem State.setKey_params (k : Reg) (p : Bool) : (s.setKey k p).params = s.params := rfl
@[simp] theorem State.setKey_draws (k : Reg) (p : Bool) : (s.setKey k p).draws = s.draws := rfl

/-! `State.clearKeys` -/

@[simp] theorem State.clearKeys_mem : s.clearKeys.mem = s.mem := rfl
@[simp] theorem State.clearKeys_v : s.clearKeys.v = s.v := rfl
@[simp] theorem State.clearKeys_i : s.clearKeys.i = s.i := rfl
@[simp] theorem State.clearKeys_pc : s.clearKeys.pc = s.pc := rfl
@[simp] theorem State.clearKeys_stack : s.clearKeys.stack = s.stack := rfl
@[simp] theorem State.clearKeys_dt : s.clearKeys.dt = s.dt := rfl
@[simp] theorem State.clearKeys_st : s.clearKeys.st = s.st := rfl
@[simp] theorem State.clearKeys_fb : s.clearKeys.fb = s.fb := rfl
@[simp] theorem State.clearKeys_key : s.clearKeys.key = noKeys := rfl
@[simp] theorem State.clearKeys_fault : s.clearKeys.fault = s.fault := rfl
@[simp] theorem State.clearKeys_params : s.clearKeys.params = s.params := rfl
@[simp] theorem State.clearKeys_draws : s.clearKeys.draws = s.draws := rfl

/-! A conditional skip changes pc only. -/

@[simp] theorem State.skipIf_mem (c : Bool) : (s.skipIf c).mem = s.mem := by cases c <;> rfl
@[simp] theorem State.skipIf_v (c : Bool) : (s.skipIf c).v = s.v := by cases c <;> rfl
@[simp] theorem State.skipIf_i (c : Bool) : (s.skipIf c).i = s.i := by cases c <;> rfl
@[simp] theorem State.skipIf_pc (c : Bool) : (s.skipIf c).pc = if c then s.pc + 2 else s.pc := by
  cases c <;> rfl
@[simp] theorem State.skipIf_stack (c : Bool) : (s.skipIf c).stack = s.stack := by cases c <;> rfl
@[simp] theorem State.skipIf_dt (c : Bool) : (s.skipIf c).dt = s.dt := by cases c <;> rfl
@[simp] theorem State.skipIf_st (c : Bool) : (s.skipIf c).st = s.st := by cases c <;> rfl
@[simp] theorem State.skipIf_fb (c : Bool) : (s.skipIf c).fb = s.fb := by cases c <;> rfl
@[simp] theorem State.skipIf_key (c : Bool) : (s.skipIf c).key = s.key := by cases c <;> rfl
@[simp] theorem State.skipIf_fault (c : Bool) : (s.skipIf c).fault = s.fault := by cases c <;> rfl
@[simp] theorem State.skipIf_params (c : Bool) : (s.skipIf c).params = s.params := by cases c <;> rfl
@[simp] theorem State.skipIf_draws (c : Bool) : (s.skipIf c).draws = s.draws := by cases c <;> rfl

/-- A conditional skip as one record update. -/
theorem State.skipIf_eq (c : Bool) : s.skipIf c = { s with pc := if c then s.pc + 2 else s.pc } := by
  cases c <;> rfl

/-- Two core states are equal exactly when their items are (R20). -/
theorem CoreState.eq_iff {a b : CoreState} : a = b ↔
    a.mem = b.mem ∧ a.v = b.v ∧ a.i = b.i ∧ a.pc = b.pc ∧ a.stack = b.stack ∧ (a.dt = b.dt ∧ a.st = b.st) ∧
      a.fb = b.fb ∧ a.key = b.key ∧ a.fault = b.fault := by
  cases a; cases b; simp [and_assoc]

/-- A machine is its core state, its parameters and its draw counter. -/
theorem State.eq_of_core {s t : State} (hcore : s.toCoreState = t.toCoreState) (hparams : s.params = t.params)
    (hdraws : s.draws = t.draws) : s = t := by
  cases s; cases t; simp_all

/-- Two states are equal when their twelve fields are. -/
theorem State.eq_of_fields {s t : State} (hmem : s.mem = t.mem) (hv : s.v = t.v) (hi : s.i = t.i)
    (hpc : s.pc = t.pc) (hstack : s.stack = t.stack) (hdt : s.dt = t.dt) (hst : s.st = t.st)
    (hfb : s.fb = t.fb) (hkey : s.key = t.key) (hfault : s.fault = t.fault)
    (hparams : s.params = t.params) (hdraws : s.draws = t.draws) : s = t := by
  exact State.eq_of_core (CoreState.eq_iff.mpr ⟨hmem, hv, hi, hpc, hstack, ⟨hdt, hst⟩, hfb, hkey, hfault⟩)
    hparams hdraws

end Sys2Proof.Machine
end

