-- ==== Sys2Proof/Laws/Memory.lean ====
section
/-! SUPPORT. What the memory operations do: read after write, the bytes a multi-byte store leaves, and that
every write keeps the canonical form (20_memory.md R67, R77). -/

namespace Sys2Proof.Machine

@[simp] theorem Memory.read_nil (a : Nat) : Memory.read [] a = 0 := rfl

theorem Memory.read_cons (c : Host.Cell) (m : Memory) (a : Nat) :
    Memory.read (c :: m) a = if c.1 = a then c.2 else Memory.read m a := rfl

theorem Memory.read_filter (m : Memory) (a k : Nat) :
    Memory.read (m.filter fun c => decide (c.1 ≠ a)) k = if k = a then 0 else Memory.read m k := by
  induction m with
  | nil => simp
  | cons c m ih =>
    by_cases hc : c.1 = a
    · rw [List.filter_cons_of_neg (by simp [hc]), ih, Memory.read_cons, hc]
      by_cases hk : k = a
      · simp [hk]
      · rw [if_neg hk, if_neg hk, if_neg (Ne.symm hk)]
    · rw [List.filter_cons_of_pos (by simp [hc]), Memory.read_cons, Memory.read_cons, ih]
      by_cases hk : c.1 = k
      · rw [if_pos hk, if_pos hk, if_neg (by omega)]
      · rw [if_neg hk, if_neg hk]

theorem Memory.read_insert (m : Memory) (a k : Nat) (b : Byte) :
    Memory.read (Memory.insert m a b) k = if k = a then b else Memory.read m k := by
  induction m with
  | nil => simp [Memory.insert, Memory.read_cons, eq_comm]
  | cons c m ih =>
    unfold Memory.insert
    split
    · simp [Memory.read_cons, eq_comm]
    · split
      · rename_i h
        simp only [Memory.read_cons, h, eq_comm (a := k)]
        by_cases hk : c.1 = k <;> simp [hk]
      · simp only [Memory.read_cons, ih]
        by_cases hk : c.1 = k
        · rw [if_pos hk, if_pos hk, if_neg (by omega)]
        · rw [if_neg hk, if_neg hk]

/-- A read after a write: the written byte at its address, the old byte at every other (R67). -/
theorem Memory.read_write (m : Memory) (a k : Nat) (b : Byte) :
    Memory.read (Memory.write m a b) k = if k = a then b else Memory.read m k := by
  unfold Memory.write
  split
  · rename_i h; subst h; exact Memory.read_filter m a k
  · exact Memory.read_insert m a k b

/-- What a multi-byte store leaves at every address: the stored byte inside the range, the old one outside. -/
theorem Memory.read_writeBytes (bs : List Byte) (m : Memory) (a k : Nat) :
    Memory.read (m.writeBytes a bs) k =
      if a ≤ k ∧ k < a + bs.length then bs.getD (k - a) 0 else Memory.read m k := by
  induction bs generalizing m a with
  | nil => rw [if_neg (by simp)]; rfl
  | cons b bs ih =>
    simp only [Memory.writeBytes, ih, List.length_cons, Memory.read_write]
    by_cases h1 : a + 1 ≤ k ∧ k < a + 1 + bs.length
    · rw [if_pos h1, if_pos (by omega), show k - a = (k - (a + 1)) + 1 by omega, List.getD_cons_succ]
    · rw [if_neg h1]
      by_cases h2 : k = a
      · rw [if_pos h2, if_pos (by omega), h2, Nat.sub_self, List.getD_cons_zero]
      · rw [if_neg h2, if_neg (by omega)]

theorem Memory.read_writeBytes_of_outside {bs : List Byte} {m : Memory} {a k : Nat}
    (h : k < a ∨ a + bs.length ≤ k) : Memory.read (m.writeBytes a bs) k = Memory.read m k := by
  rw [Memory.read_writeBytes, if_neg (by omega)]

/-- What the cells of reset memory read as. -/
theorem Memory.read_cellsFrom (bs : List Byte) (a k : Nat) :
    Memory.read (cellsFrom a bs) k = if a ≤ k ∧ k < a + bs.length then bs.getD (k - a) 0 else 0 := by
  induction bs generalizing a with
  | nil => rw [if_neg (by simp)]; rfl
  | cons b bs ih =>
    have hstep : Memory.read (cellsFrom a (b :: bs)) k =
        if k = a then b else Memory.read (cellsFrom (a + 1) bs) k := by
      rw [show cellsFrom a (b :: bs) =
        if b = 0 then cellsFrom (a + 1) bs else (a, b) :: cellsFrom (a + 1) bs from rfl]
      by_cases hb : b = 0
      · rw [if_pos hb]
        by_cases hk : k = a
        · rw [if_pos hk, ih, if_neg (by omega), hb]
        · rw [if_neg hk]
      · rw [if_neg hb, Memory.read_cons]
        simp only [eq_comm]
    rw [hstep, ih, List.length_cons]
    by_cases hk : k = a
    · rw [if_pos hk, if_pos (by omega), hk, Nat.sub_self, List.getD_cons_zero]
    · rw [if_neg hk]
      by_cases h1 : a + 1 ≤ k ∧ k < a + 1 + bs.length
      · rw [if_pos h1, if_pos (by omega), show k - a = (k - (a + 1)) + 1 by omega, List.getD_cons_succ]
      · rw [if_neg h1, if_neg (by omega)]

/-! ### The canonical form -/

theorem Memory.wfFrom_mono {m : Memory} {lo hi : Nat} (h : lo ≤ hi) (hm : Memory.wfFrom hi m = true) :
    Memory.wfFrom lo m = true := by
  cases m with
  | nil => rfl
  | cons c m => simp_all [Memory.wfFrom]; omega

theorem Memory.wfFrom_filter {m : Memory} {lo : Nat} (p : Host.Cell → Bool) (hm : Memory.wfFrom lo m = true) :
    Memory.wfFrom lo (m.filter p) = true := by
  induction m generalizing lo with
  | nil => rfl
  | cons c m ih =>
    simp only [Memory.wfFrom, Bool.and_eq_true, decide_eq_true_eq] at hm
    by_cases hp : p c
    · have := ih hm.2
      simp_all [Memory.wfFrom]
    · simp only [List.filter_cons, hp, Bool.false_eq_true, if_false]
      exact Memory.wfFrom_mono (by omega) (ih hm.2)

theorem Memory.wfFrom_insert {m : Memory} {lo a : Nat} {b : Byte} (hb : b ≠ 0) (hlo : lo ≤ a)
    (ha : a < Config.memSize) (hm : Memory.wfFrom lo m = true) :
    Memory.wfFrom lo (Memory.insert m a b) = true := by
  induction m generalizing lo with
  | nil => simp_all [Memory.insert, Memory.wfFrom]
  | cons c m ih =>
    simp only [Memory.wfFrom, Bool.and_eq_true, decide_eq_true_eq] at hm
    unfold Memory.insert
    split
    · simp_all [Memory.wfFrom]
    · split
      · subst_vars; simp_all [Memory.wfFrom]
      · have := ih (lo := c.1 + 1) (by omega) hm.2
        simp_all [Memory.wfFrom]

theorem Memory.wf_write {m : Memory} {a : Nat} {b : Byte} (ha : a < Config.memSize) (hm : m.wf = true) :
    (Memory.write m a b).wf = true := by
  unfold Memory.write
  split
  · exact Memory.wfFrom_filter _ hm
  · exact Memory.wfFrom_insert ‹_› (Nat.zero_le _) ha hm

/-- A store inside memory keeps the canonical form. -/
theorem Memory.wf_writeBytes {bs : List Byte} {m : Memory} {a : Nat} (ha : a + bs.length ≤ Config.memSize)
    (hm : m.wf = true) : (m.writeBytes a bs).wf = true := by
  induction bs generalizing m a with
  | nil => exact hm
  | cons b bs ih =>
    simp only [List.length_cons] at ha
    exact ih (by omega) (Memory.wf_write (by omega) hm)

theorem Memory.wfFrom_cellsFrom {bs : List Byte} {a : Nat} (ha : a + bs.length ≤ Config.memSize) :
    Memory.wfFrom a (cellsFrom a bs) = true := by
  induction bs generalizing a with
  | nil => rfl
  | cons b bs ih =>
    simp only [List.length_cons] at ha
    have h := ih (a := a + 1) (by omega)
    unfold cellsFrom
    split
    · exact Memory.wfFrom_mono (by omega) h
    · simp only [Memory.wfFrom, h, Nat.le_refl, decide_true, Bool.and_true, Bool.true_and, Bool.and_eq_true,
        decide_eq_true_eq]
      exact ⟨by omega, ‹_›⟩

end Sys2Proof.Machine
end

