-- ==== Sys2Proof/Laws/Registers.lean ====
section
/-! SUPPORT. What the register operations do: one register written and the others kept, the two writes of a
flag instruction (43_alu.md R172), and the loop of FX65 (44_index_memory.md R185). -/

namespace Sys2Proof.Machine

theorem State.reg_eq (s : State) (r : Reg) : s.reg r = s.v[r] := rfl

/-! An update that is no register write keeps every register. -/

@[simp] theorem State.reg_advance (s : State) (r : Reg) : s.advance.reg r = s.reg r := rfl
@[simp] theorem State.reg_tick (s : State) (r : Reg) : s.tick.reg r = s.reg r := rfl
@[simp] theorem State.reg_raise (s : State) (f : Fault) (r : Reg) : (s.raise f).reg r = s.reg r := rfl
@[simp] theorem State.reg_jump (s : State) (w : Word) (r : Reg) : (s.jump w).reg r = s.reg r := rfl
@[simp] theorem State.reg_skip (s : State) (r : Reg) : s.skip.reg r = s.reg r := rfl
@[simp] theorem State.reg_rewind (s : State) (r : Reg) : s.rewind.reg r = s.reg r := rfl
@[simp] theorem State.reg_push (s : State) (a : Word) (r : Reg) : (s.push a).reg r = s.reg r := rfl
@[simp] theorem State.reg_dropTop (s : State) (r : Reg) : s.dropTop.reg r = s.reg r := rfl
@[simp] theorem State.reg_consumeRnd (s : State) (r : Reg) : s.consumeRnd.reg r = s.reg r := rfl
@[simp] theorem State.reg_setIndex (s : State) (w : Word) (r : Reg) : (s.setIndex w).reg r = s.reg r := rfl
@[simp] theorem State.reg_storeAtI (s : State) (bs : List Byte) (r : Reg) : (s.storeAtI bs).reg r = s.reg r := rfl
@[simp] theorem State.reg_clearPixels (s : State) (r : Reg) : s.clearPixels.reg r = s.reg r := rfl
@[simp] theorem State.reg_skipIf (s : State) (c : Bool) (r : Reg) : (s.skipIf c).reg r = s.reg r := by
  cases c <;> rfl

theorem Registers.get_set (v : Registers) (x r : Reg) (b : Byte) :
    (v.set x b)[r] = if r = x then b else v[r] := by
  have := Vector.getElem_set (xs := v) (x := b) (i := x.val) (j := r.val) x.isLt r.isLt
  simp only [Fin.getElem_fin, this, Fin.ext_iff, eq_comm]

/-- A register write: the written value in its register, every other register kept. -/
theorem State.reg_setReg (s : State) (x r : Reg) (b : Byte) :
    (s.setReg x b).reg r = if r = x then b else s.reg r :=
  Registers.get_set s.v x r b

/-- Register files are equal when every register is. -/
theorem Registers.eq_of_get {v w : Registers} (h : ∀ r : Reg, v[r] = w[r]) : v = w :=
  Vector.ext fun k hk => h ⟨k, hk⟩

/-- 8XY4's two writes as one register file: for X = F the flag stays (R172). -/
theorem State.writeResultThenFlag_reg (s : State) (x r : Reg) (b : Byte) (f : Bool) :
    (s.writeResultThenFlag x b f).reg r =
      if r = vf then flagByte f else if r = x then b else s.reg r := by
  simp only [State.writeResultThenFlag, State.reg_setReg]

/-- The two writes of 8XY5, 8XY6, 8XY7 and 8XYE as one register file: for X = F the result stays (R172). -/
theorem State.writeFlagThenResult_reg (s : State) (x r : Reg) (b : Byte) (f : Bool) :
    (s.writeFlagThenResult x b f).reg r =
      if r = x then b else if r = vf then flagByte f else s.reg r := by
  simp only [State.writeFlagThenResult, State.reg_setReg]

/-- A flag instruction writes registers only. -/
theorem State.writeResultThenFlag_eq (s : State) (x : Reg) (b : Byte) (f : Bool) :
    s.writeResultThenFlag x b f = { s with v := (s.v.set x b).set vf (flagByte f) } := rfl

theorem State.writeFlagThenResult_eq (s : State) (x : Reg) (b : Byte) (f : Bool) :
    s.writeFlagThenResult x b f = { s with v := (s.v.set vf (flagByte f)).set x b } := rfl

/-- What loading `bs` from register `k` up leaves in every register. -/
theorem loadRegs_get (bs : List Byte) (v : Registers) (k : Nat) (r : Reg) :
    (loadRegs v k bs)[r] = if k ≤ r.val ∧ r.val < k + bs.length then bs.getD (r.val - k) 0 else v[r] := by
  induction bs generalizing v k with
  | nil => rw [if_neg (by simp)]; rfl
  | cons b bs ih =>
    simp only [loadRegs, ih, List.length_cons]
    by_cases h1 : k + 1 ≤ r.val ∧ r.val < k + 1 + bs.length
    · rw [if_pos h1, if_pos (by omega), show r.val - k = (r.val - (k + 1)) + 1 by omega, List.getD_cons_succ]
    · rw [if_neg h1]
      have hget := Vector.getElem_setIfInBounds (xs := v) (x := b) (i := k) (j := r.val) r.isLt
      simp only [Fin.getElem_fin, hget]
      by_cases h2 : k = r.val
      · rw [if_pos h2, if_pos (by omega), h2, Nat.sub_self, List.getD_cons_zero]
      · rw [if_neg h2, if_neg (by omega)]

@[simp] theorem State.length_bytesAtI (s : State) (n : Nat) : (s.bytesAtI n).length = n := by
  simp [State.bytesAtI]

theorem State.getD_bytesAtI (s : State) {n k : Nat} (h : k < n) :
    (s.bytesAtI n).getD k 0 = s.mem.read (s.ea k) := by
  simp [State.bytesAtI, List.getD_eq_getElem?_getD, h]

@[simp] theorem State.length_regsTo (s : State) (x : Reg) : (s.regsTo x).length = x.val + 1 := by
  have := x.isLt
  simp only [State.regsTo, List.length_take, Vector.length_toList]
  omega

theorem State.getD_regsTo (s : State) {x r : Reg} (h : r ≤ x) : (s.regsTo x).getD r.val 0 = s.reg r := by
  have hr : r.val < x.val + 1 := by have := Fin.le_def.mp h; omega
  simp [State.regsTo, List.getD_eq_getElem?_getD, hr, State.reg]

@[simp] theorem length_decimalDigits (b : Byte) : (decimalDigits b).length = 3 := rfl

end Sys2Proof.Machine
end

