-- ==== Sys2Proof/Laws/Display.lean ====
section
/-! SUPPORT. What the framebuffer operations and the draw's loops do: each pixel is XORed with the sprite bit
that falls on it, and a collision is a 1 bit on a pixel that was true (45_display.md R191). -/

namespace Sys2Proof.Machine

theorem Framebuffer.pixel_of_lt (fb : Framebuffer) {y x : Nat} (hy : y < 32) (hx : x < 64) :
    fb.pixel y x = fb[y][x] := dif_pos ⟨hy, hx⟩

theorem Framebuffer.pixel_outside (fb : Framebuffer) {y x : Nat} (h : ¬(y < 32 ∧ x < 64)) :
    fb.pixel y x = false := dif_neg h

/-- Framebuffers are equal when every pixel of the grid is. -/
theorem Framebuffer.eq_of_pixel {a b : Framebuffer}
    (h : ∀ y x, y < 32 → x < 64 → a.pixel y x = b.pixel y x) : a = b := by
  apply Vector.ext; intro y hy
  apply Vector.ext; intro x hx
  rw [← Framebuffer.pixel_of_lt a hy hx, ← Framebuffer.pixel_of_lt b hy hx, h y x hy hx]

@[simp] theorem Framebuffer.pixel_blank (y x : Nat) : Framebuffer.blank.pixel y x = false := by
  unfold Framebuffer.pixel
  split
  · simp [Framebuffer.blank]
  · rfl

/-- A toggle inverts its pixel, if it is on the screen, and keeps every other. -/
theorem Framebuffer.pixel_toggle (fb : Framebuffer) (y x py px : Nat) :
    (fb.toggle y x).pixel py px = (fb.pixel py px ^^ decide (py = y ∧ px = x ∧ y < 32 ∧ x < 64)) := by
  by_cases hyx : y < 32 ∧ x < 64
  · by_cases hp : py < 32 ∧ px < 64
    · rw [Framebuffer.pixel_of_lt _ hp.1 hp.2, Framebuffer.pixel_of_lt _ hp.1 hp.2, Framebuffer.toggle,
        dif_pos hyx]
      rw [Vector.getElem_set]
      by_cases hy : y = py
      · subst hy
        rw [if_pos rfl, Vector.getElem_set]
        by_cases hx : x = px
        · subst hx; simp [hyx]
        · simp [hx, Ne.symm hx]
      · simp [hy, Ne.symm hy]
    · rw [Framebuffer.pixel_outside _ hp, Framebuffer.pixel_outside _ hp]
      have : ¬(py = y ∧ px = x ∧ y < 32 ∧ x < 64) := by omega
      simp only [this, decide_false, Bool.xor_false]
  · rw [Framebuffer.toggle, dif_neg hyx]
    have : ¬(py = y ∧ px = x ∧ y < 32 ∧ x < 64) := by omega
    simp only [this, decide_false, Bool.xor_false]

/-- A draw in progress and the pixels `on` a part of it toggles: what that part leaves. -/
structure Canvas.Draws (d e : Canvas) (on : Nat → Nat → Bool) : Prop where
  pixel : ∀ py px, e.fb.pixel py px = (d.fb.pixel py px ^^ on py px)
  collision : e.collision = true ↔ d.collision = true ∨ ∃ py px, on py px = true ∧ d.fb.pixel py px = true

theorem Canvas.Draws.congr {d e : Canvas} {on on' : Nat → Nat → Bool} (h : Canvas.Draws d e on)
    (heq : ∀ py px, on py px = on' py px) : Canvas.Draws d e on' := by
  have : on = on' := funext fun py => funext fun px => heq py px
  exact this ▸ h

theorem Canvas.Draws.nothing (d : Canvas) {on : Nat → Nat → Bool} (h : ∀ py px, on py px = false) :
    Canvas.Draws d d on := by
  constructor <;> simp [h]

/-- Two parts that toggle different pixels, one after the other. -/
theorem Canvas.Draws.trans {d e f : Canvas} {on₁ on₂ : Nat → Nat → Bool} (h₁ : Canvas.Draws d e on₁)
    (h₂ : Canvas.Draws e f on₂) (hd : ∀ py px, on₁ py px = true → on₂ py px = false) :
    Canvas.Draws d f fun py px => on₁ py px || on₂ py px := by
  have hd' : ∀ py px, on₂ py px = true → on₁ py px = false := fun py px h => by
    cases h1 : on₁ py px
    · rfl
    · have := hd py px h1; simp_all
  constructor
  · intro py px
    rw [h₂.pixel, h₁.pixel]
    cases h1 : on₁ py px
    · simp
    · simp [hd py px h1]
  · rw [h₂.collision, h₁.collision]
    constructor
    · rintro ((h | ⟨py, px, ho, hp⟩) | ⟨py, px, ho, hp⟩)
      · exact .inl h
      · exact .inr ⟨py, px, by simp [ho], hp⟩
      · rw [h₁.pixel, hd' py px ho] at hp
        exact .inr ⟨py, px, by simp [ho], by simpa using hp⟩
    · rintro (h | ⟨py, px, ho, hp⟩)
      · exact .inl (.inl h)
      · cases h1 : on₁ py px
        · refine .inr ⟨py, px, by simpa [h1] using ho, ?_⟩
          rw [h₁.pixel, h1]; simpa using hp
        · exact .inl (.inr ⟨py, px, h1, hp⟩)

theorem Canvas.plot_draws (d : Canvas) {y x : Nat} (hy : y < 32) (hx : x < 64) :
    Canvas.Draws d (d.plot y x) fun py px => decide (py = y ∧ px = x) := by
  constructor
  · intro py px
    simp [Canvas.plot, Framebuffer.pixel_toggle, hy, hx]
  · simp [Canvas.plot]

/-- One row of the draw: sprite column c falls on x0 + c, columns at x ≥ 64 are dropped. -/
theorem drawBits_draws (row : Byte) {y : Nat} (hy : y < 32) (x0 n c : Nat) (d : Canvas) :
    Canvas.Draws d (drawBits row y x0 (List.range' c n) d) fun py px =>
      decide (py = y ∧ x0 + c ≤ px ∧ px < x0 + c + n ∧ px < 64) && spriteBit row (px - x0) := by
  induction n generalizing c d with
  | zero =>
    apply Canvas.Draws.nothing
    intro py px
    have : ¬(py = y ∧ x0 + c ≤ px ∧ px < x0 + c + 0 ∧ px < 64) := by omega
    simp only [this, decide_false, Bool.false_and]
  | succ n ih =>
    simp only [List.range'_succ, drawBits, Config.fbCols]
    by_cases hx : 64 ≤ x0 + c
    · rw [if_pos hx]
      apply Canvas.Draws.nothing
      intro py px
      have : ¬(py = y ∧ x0 + c ≤ px ∧ px < x0 + c + (n + 1) ∧ px < 64) := by omega
      simp only [this, decide_false, Bool.false_and]
    · rw [if_neg hx]
      have hfirst : Canvas.Draws d (if spriteBit row c then d.plot y (x0 + c) else d) fun py px =>
          decide (py = y ∧ px = x0 + c) && spriteBit row c := by
        by_cases hb : spriteBit row c = true
        · rw [if_pos hb]
          exact (Canvas.plot_draws d hy (by omega)).congr fun py px => by simp [hb]
        · rw [if_neg hb]
          exact Canvas.Draws.nothing d fun py px => by simp [hb]
      refine (hfirst.trans (ih (c + 1) _) ?_).congr ?_
      · intro py px h
        have h1 : py = y ∧ px = x0 + c := by simp_all
        have : ¬(py = y ∧ x0 + (c + 1) ≤ px ∧ px < x0 + (c + 1) + n ∧ px < 64) := by omega
        simp only [this, decide_false, Bool.false_and]
      · intro py px
        by_cases h1 : py = y ∧ px = x0 + c
        · have h2 : ¬(py = y ∧ x0 + (c + 1) ≤ px ∧ px < x0 + (c + 1) + n ∧ px < 64) := by omega
          have h3 : py = y ∧ x0 + c ≤ px ∧ px < x0 + c + (n + 1) ∧ px < 64 := by omega
          have h4 : px - x0 = c := by omega
          rw [decide_eq_true h1, decide_eq_false h2, decide_eq_true h3, h4, Bool.false_and, Bool.or_false]
        · have h2 : (py = y ∧ x0 + (c + 1) ≤ px ∧ px < x0 + (c + 1) + n ∧ px < 64) ↔
              (py = y ∧ x0 + c ≤ px ∧ px < x0 + c + (n + 1) ∧ px < 64) := by omega
          simp only [h1, h2, decide_false, Bool.false_and, Bool.false_or]

/-- The rows of the draw: sprite row r falls on y0 + r, rows at y ≥ 32 are dropped. -/
theorem drawRows_draws (m : Memory) (base y0 x0 n r : Nat) (d : Canvas) :
    Canvas.Draws d (drawRows m base y0 x0 (List.range' r n) d) fun py px =>
      decide (y0 + r ≤ py ∧ py < y0 + r + n ∧ py < 32 ∧ x0 ≤ px ∧ px < x0 + 8 ∧ px < 64) &&
        spriteBit (m.read (base + (py - y0))) (px - x0) := by
  induction n generalizing r d with
  | zero =>
    apply Canvas.Draws.nothing
    intro py px
    have : ¬(y0 + r ≤ py ∧ py < y0 + r + 0 ∧ py < 32 ∧ x0 ≤ px ∧ px < x0 + 8 ∧ px < 64) := by omega
    simp only [this, decide_false, Bool.false_and]
  | succ n ih =>
    simp only [List.range'_succ, drawRows, Config.fbRows]
    by_cases hy : 32 ≤ y0 + r
    · rw [if_pos hy]
      apply Canvas.Draws.nothing
      intro py px
      have : ¬(y0 + r ≤ py ∧ py < y0 + r + (n + 1) ∧ py < 32 ∧ x0 ≤ px ∧ px < x0 + 8 ∧ px < 64) := by omega
      simp only [this, decide_false, Bool.false_and]
    · rw [if_neg hy, List.range_eq_range']
      have hrow := drawBits_draws (m.read (base + r)) (y := y0 + r) (by omega) x0 8 0 d
      refine (hrow.trans (ih (r + 1) _) ?_).congr ?_
      · intro py px h
        have h1 : py = y0 + r := by simp_all
        have : ¬(y0 + (r + 1) ≤ py ∧ py < y0 + (r + 1) + n ∧ py < 32 ∧ x0 ≤ px ∧ px < x0 + 8 ∧ px < 64) := by
          omega
        simp only [this, decide_false, Bool.false_and]
      · intro py px
        by_cases h1 : py = y0 + r
        · have h2 : ¬(y0 + (r + 1) ≤ py ∧ py < y0 + (r + 1) + n ∧ py < 32 ∧ x0 ≤ px ∧ px < x0 + 8 ∧ px < 64) := by
            omega
          have h3 : (py = y0 + r ∧ x0 + 0 ≤ px ∧ px < x0 + 0 + 8 ∧ px < 64) ↔
              (y0 + r ≤ py ∧ py < y0 + r + (n + 1) ∧ py < 32 ∧ x0 ≤ px ∧ px < x0 + 8 ∧ px < 64) := by omega
          have h4 : py - y0 = r := by omega
          simp only [h2, h3, h4, decide_false, Bool.false_and, Bool.or_false]
        · have h2 : ¬(py = y0 + r ∧ x0 + 0 ≤ px ∧ px < x0 + 0 + 8 ∧ px < 64) := by omega
          have h3 : (y0 + (r + 1) ≤ py ∧ py < y0 + (r + 1) + n ∧ py < 32 ∧ x0 ≤ px ∧ px < x0 + 8 ∧ px < 64) ↔
              (y0 + r ≤ py ∧ py < y0 + r + (n + 1) ∧ py < 32 ∧ x0 ≤ px ∧ px < x0 + 8 ∧ px < 64) := by omega
          simp only [h2, h3, decide_false, Bool.false_and, Bool.false_or]

/-- The whole draw: the pixels the sprite's unclipped 1 bits fall on are inverted, and a collision is one of
them that was true (R191). -/
theorem State.sprite_draws (s : State) (x y : Reg) (n : Nat) :
    Canvas.Draws ⟨s.fb, false⟩ (s.sprite x y n) (s.spritePixel x y n) := by
  have h := drawRows_draws s.mem (s.ea 0) (originY (s.reg y)) (originX (s.reg x)) n 0 ⟨s.fb, false⟩
  rw [← List.range_eq_range'] at h
  exact h.congr fun py px => by
    simp [State.spritePixel, spriteBit, originX, originY, State.ea]

end Sys2Proof.Machine
end

