-- ==== Sys2Proof/Laws/Operands.lean ====
section
/-! SUPPORT. What the checks and the small operations over operands, timers, keys and flags say, as numbers: the
lemmas later proofs cite instead of unfolding them. -/

namespace Sys2Proof.Machine

theorem byte_eq_zero_iff (b : Byte) : b = 0 ↔ b.toNat = 0 :=
  ⟨fun h => by rw [h]; rfl, fun h => BitVec.eq_of_toNat_eq h⟩

/-! ### Range checks -/

@[simp] theorem State.ea_eq (s : State) (k : Nat) : s.ea k = s.i.toNat + k := rfl

/-- R66, R186. -/
theorem State.inMemory_iff (s : State) (last : Nat) : s.inMemory last = true ↔ s.i.toNat + last ≤ 0xFFF :=
  decide_eq_true_iff

/-- R191, R194, R237. -/
theorem State.spriteInMemory_iff (s : State) (y : Reg) (n : Nat) : s.spriteInMemory y n = true ↔
    n = 0 ∨ s.i.toNat + min (n - 1) (32 - (s.reg y).toNat % 32) ≤ 0xFFF := by
  rw [State.spriteInMemory, Bool.or_eq_true, State.inMemory_iff, decide_eq_true_iff]
  rfl

/-- R236. -/
theorem State.stackFull_iff (s : State) : s.stackFull = true ↔ s.params.stackDepth ≤ s.stack.length :=
  decide_eq_true_iff

/-- R235. -/
theorem State.top_eq_none_iff (s : State) : s.top = none ↔ s.stack = [] := List.getLast?_eq_none_iff

theorem State.top_append {s : State} {rest : List Word} {a : Word} (h : s.stack = rest ++ [a]) :
    s.top = some a ∧ s.stack.dropLast = rest := by
  simp [State.top, h]

/-! ### Keys -/

/-- R155, R238. -/
theorem keyIndex_eq_none_iff (b : Byte) : keyIndex b = none ↔ 15 < b.toNat := by
  unfold keyIndex
  split <;> simp <;> omega

theorem keyIndex_eq_some_iff (b : Byte) (k : Reg) : keyIndex b = some k ↔ b.toNat = k.val := by
  have := k.isLt
  unfold keyIndex
  split
  · simp [Fin.ext_iff]
  · simp; omega

/-- The key wait's answer is the least pressed index (R203). -/
theorem State.lowestKey_eq_some_iff (s : State) (n : Nat) : s.lowestKey = some n ↔
    ∃ k : Reg, n = k.val ∧ s.key[k] = true ∧ ∀ j : Reg, j < k → s.key[j] = false := by
  simp only [State.lowestKey, List.findIdx?_eq_some_iff_getElem, Vector.length_toList, Vector.getElem_toList, id]
  constructor
  · rintro ⟨h, hk, hj⟩
    exact ⟨⟨n, h⟩, rfl, hk, fun j hjn => by simpa using hj j.val hjn⟩
  · rintro ⟨k, rfl, hk, hj⟩
    exact ⟨k.isLt, hk, fun j hjk => by simpa using hj ⟨j, by omega⟩ hjk⟩

theorem State.lowestKey_eq_none_iff (s : State) : s.lowestKey = none ↔ ∀ k : Reg, s.key[k] = false := by
  simp only [State.lowestKey, List.findIdx?_eq_none_iff, id]
  constructor
  · intro h k
    exact h _ (by simp)
  · intro h b hb
    obtain ⟨k, hk, rfl⟩ := List.mem_iff_getElem.mp hb
    exact h ⟨k, by simpa using hk⟩

/-! ### Flags, timers and zero extension -/

@[simp] theorem toNat_flagByte (b : Bool) : (flagByte b).toNat = if b then 1 else 0 := by cases b <;> rfl

/-- R126. -/
@[simp] theorem toNat_countDown (t : Byte) : (countDown t).toNat = t.toNat - 1 := by
  unfold countDown
  split
  · rename_i h; subst h; rfl
  · rename_i h
    have h0 : t.toNat ≠ 0 := fun h' => h ((byte_eq_zero_iff t).mpr h')
    have := t.isLt
    rw [BitVec.toNat_sub, show (1 : Byte).toNat = 1 from rfl]
    omega

@[simp] theorem toNat_zextAddr (nnn : Addr) : (zextAddr nnn).toNat = nnn.toNat := by
  have := nnn.isLt
  rw [zextAddr, BitVec.toNat_setWidth]
  exact Nat.mod_eq_of_lt (by omega)

@[simp] theorem toNat_zextByte (b : Byte) : (zextByte b).toNat = b.toNat := by
  have := b.isLt
  rw [zextByte, BitVec.toNat_setWidth]
  exact Nat.mod_eq_of_lt (by omega)

/-- R182. -/
theorem toNat_glyphAddr (b : Byte) : (glyphAddr b).toNat = 0x050 + b.toNat % 16 * 5 := by
  have h : (b &&& 0x0F).toNat = b.toNat % 16 := by
    rw [BitVec.toNat_and]
    exact Nat.and_two_pow_sub_one_eq_mod b.toNat 4
  rw [glyphAddr, h, BitVec.toNat_ofNat, Config.fontBase, Config.glyphBytes]
  exact Nat.mod_eq_of_lt (by omega)

end Sys2Proof.Machine
end

