-- ==== Sys2Proof/Laws/PerInstr.lean ====
section
/-! SUPPORT. One lemma per instruction: the encoder's word of the instruction lies in the instruction's own row
of the opcode map (30_encoding.md R94). -/

namespace Sys2Proof.Laws

/-- The word of `i` AND its row's mask is its row's pattern. -/
def EncodeRow.Statement (i : Instr) : Prop :=
  ∃ row ∈ opcodeMap, row.mnemonic = mnemonic i ∧ encode i &&& row.mask = row.pattern

/-- A word of a form that fixes the class only. -/
theorem and_F000_formAddr (c : Nibble) (nnn : Addr) : formAddr c nnn &&& 0xF000#16 = formAddr c 0 := by
  rw [and_F000, opClass_formAddr]

theorem and_F000_formRegByte (c : Nibble) (x : Reg) (nn : Byte) :
    formRegByte c x nn &&& 0xF000#16 = formAddr c 0 := by
  rw [and_F000, opClass_formRegByte]

theorem and_F000_formRegReg (c : Nibble) (x y : Reg) (n : Nibble) :
    formRegReg c x y n &&& 0xF000#16 = formAddr c 0 := by
  rw [and_F000, opClass_formRegReg]

/-- A word of a form that fixes the class and N. -/
theorem and_F00F_formRegReg (c : Nibble) (x y : Reg) (n : Nibble) :
    formRegReg c x y n &&& 0xF00F#16 = formRegReg c 0 0 n := by
  rw [and_F00F, opClass_formRegReg, fieldN_formRegReg]

/-- A word of a form that fixes the class and NN. -/
theorem and_F0FF_formRegByte (c : Nibble) (x : Reg) (nn : Byte) :
    formRegByte c x nn &&& 0xF0FF#16 = formRegByte c 0 nn := by
  rw [and_F0FF, opClass_formRegByte, fieldNN_formRegByte]

theorem EncodeRow.cls : EncodeRow.Statement .cls :=
  ⟨⟨"CLS", 0xFFFF#16, 0x00E0#16⟩, by decide, rfl, rfl⟩

theorem EncodeRow.ret : EncodeRow.Statement .ret :=
  ⟨⟨"RET", 0xFFFF#16, 0x00EE#16⟩, by decide, rfl, rfl⟩

theorem EncodeRow.jp (nnn : Addr) : EncodeRow.Statement (.jp nnn) :=
  ⟨⟨"JP", 0xF000#16, 0x1000#16⟩, by decide, rfl, and_F000_formAddr ..⟩

theorem EncodeRow.call (nnn : Addr) : EncodeRow.Statement (.call nnn) :=
  ⟨⟨"CALL", 0xF000#16, 0x2000#16⟩, by decide, rfl, and_F000_formAddr ..⟩

theorem EncodeRow.sei (x : Reg) (nn : Byte) : EncodeRow.Statement (.sei x nn) :=
  ⟨⟨"SEI", 0xF000#16, 0x3000#16⟩, by decide, rfl, and_F000_formRegByte ..⟩

theorem EncodeRow.snei (x : Reg) (nn : Byte) : EncodeRow.Statement (.snei x nn) :=
  ⟨⟨"SNEI", 0xF000#16, 0x4000#16⟩, by decide, rfl, and_F000_formRegByte ..⟩

theorem EncodeRow.ser (x : Reg) (y : Reg) (n : Nibble) : EncodeRow.Statement (.ser x y n) :=
  ⟨⟨"SER", 0xF000#16, 0x5000#16⟩, by decide, rfl, and_F000_formRegReg ..⟩

theorem EncodeRow.ldi (x : Reg) (nn : Byte) : EncodeRow.Statement (.ldi x nn) :=
  ⟨⟨"LDI", 0xF000#16, 0x6000#16⟩, by decide, rfl, and_F000_formRegByte ..⟩

theorem EncodeRow.addi (x : Reg) (nn : Byte) : EncodeRow.Statement (.addi x nn) :=
  ⟨⟨"ADDI", 0xF000#16, 0x7000#16⟩, by decide, rfl, and_F000_formRegByte ..⟩

theorem EncodeRow.mov (x : Reg) (y : Reg) : EncodeRow.Statement (.mov x y) :=
  ⟨⟨"MOV", 0xF00F#16, 0x8000#16⟩, by decide, rfl, and_F00F_formRegReg ..⟩

theorem EncodeRow.or (x : Reg) (y : Reg) : EncodeRow.Statement (.or x y) :=
  ⟨⟨"OR", 0xF00F#16, 0x8001#16⟩, by decide, rfl, and_F00F_formRegReg ..⟩

theorem EncodeRow.and (x : Reg) (y : Reg) : EncodeRow.Statement (.and x y) :=
  ⟨⟨"AND", 0xF00F#16, 0x8002#16⟩, by decide, rfl, and_F00F_formRegReg ..⟩

theorem EncodeRow.xor (x : Reg) (y : Reg) : EncodeRow.Statement (.xor x y) :=
  ⟨⟨"XOR", 0xF00F#16, 0x8003#16⟩, by decide, rfl, and_F00F_formRegReg ..⟩

theorem EncodeRow.add (x : Reg) (y : Reg) : EncodeRow.Statement (.add x y) :=
  ⟨⟨"ADD", 0xF00F#16, 0x8004#16⟩, by decide, rfl, and_F00F_formRegReg ..⟩

theorem EncodeRow.sub (x : Reg) (y : Reg) : EncodeRow.Statement (.sub x y) :=
  ⟨⟨"SUB", 0xF00F#16, 0x8005#16⟩, by decide, rfl, and_F00F_formRegReg ..⟩

theorem EncodeRow.shr (x : Reg) (y : Reg) : EncodeRow.Statement (.shr x y) :=
  ⟨⟨"SHR", 0xF00F#16, 0x8006#16⟩, by decide, rfl, and_F00F_formRegReg ..⟩

theorem EncodeRow.subn (x : Reg) (y : Reg) : EncodeRow.Statement (.subn x y) :=
  ⟨⟨"SUBN", 0xF00F#16, 0x8007#16⟩, by decide, rfl, and_F00F_formRegReg ..⟩

theorem EncodeRow.shl (x : Reg) (y : Reg) : EncodeRow.Statement (.shl x y) :=
  ⟨⟨"SHL", 0xF00F#16, 0x800E#16⟩, by decide, rfl, and_F00F_formRegReg ..⟩

theorem EncodeRow.sner (x : Reg) (y : Reg) (n : Nibble) : EncodeRow.Statement (.sner x y n) :=
  ⟨⟨"SNER", 0xF000#16, 0x9000#16⟩, by decide, rfl, and_F000_formRegReg ..⟩

theorem EncodeRow.ldx (nnn : Addr) : EncodeRow.Statement (.ldx nnn) :=
  ⟨⟨"LDX", 0xF000#16, 0xA000#16⟩, by decide, rfl, and_F000_formAddr ..⟩

theorem EncodeRow.jpx (x : Reg) (nnn : Addr) : EncodeRow.Statement (.jpx x nnn) :=
  ⟨⟨"JPX", 0xF000#16, 0xB000#16⟩, by decide, rfl, and_F000_formAddr ..⟩

theorem EncodeRow.rnd (x : Reg) (nn : Byte) : EncodeRow.Statement (.rnd x nn) :=
  ⟨⟨"RND", 0xF000#16, 0xC000#16⟩, by decide, rfl, and_F000_formRegByte ..⟩

theorem EncodeRow.drw (x : Reg) (y : Reg) (n : Nibble) : EncodeRow.Statement (.drw x y n) :=
  ⟨⟨"DRW", 0xF000#16, 0xD000#16⟩, by decide, rfl, and_F000_formRegReg ..⟩

theorem EncodeRow.skp (x : Reg) : EncodeRow.Statement (.skp x) :=
  ⟨⟨"SKP", 0xF0FF#16, 0xE09E#16⟩, by decide, rfl, and_F0FF_formRegByte ..⟩

theorem EncodeRow.sknp (x : Reg) : EncodeRow.Statement (.sknp x) :=
  ⟨⟨"SKNP", 0xF0FF#16, 0xE0A1#16⟩, by decide, rfl, and_F0FF_formRegByte ..⟩

theorem EncodeRow.gdt (x : Reg) : EncodeRow.Statement (.gdt x) :=
  ⟨⟨"GDT", 0xF0FF#16, 0xF007#16⟩, by decide, rfl, and_F0FF_formRegByte ..⟩

theorem EncodeRow.wkey (x : Reg) : EncodeRow.Statement (.wkey x) :=
  ⟨⟨"WKEY", 0xF0FF#16, 0xF00A#16⟩, by decide, rfl, and_F0FF_formRegByte ..⟩

theorem EncodeRow.sdt (x : Reg) : EncodeRow.Statement (.sdt x) :=
  ⟨⟨"SDT", 0xF0FF#16, 0xF015#16⟩, by decide, rfl, and_F0FF_formRegByte ..⟩

theorem EncodeRow.sst (x : Reg) : EncodeRow.Statement (.sst x) :=
  ⟨⟨"SST", 0xF0FF#16, 0xF018#16⟩, by decide, rfl, and_F0FF_formRegByte ..⟩

theorem EncodeRow.addx (x : Reg) : EncodeRow.Statement (.addx x) :=
  ⟨⟨"ADDX", 0xF0FF#16, 0xF01E#16⟩, by decide, rfl, and_F0FF_formRegByte ..⟩

theorem EncodeRow.font (x : Reg) : EncodeRow.Statement (.font x) :=
  ⟨⟨"FONT", 0xF0FF#16, 0xF029#16⟩, by decide, rfl, and_F0FF_formRegByte ..⟩

theorem EncodeRow.bcd (x : Reg) : EncodeRow.Statement (.bcd x) :=
  ⟨⟨"BCD", 0xF0FF#16, 0xF033#16⟩, by decide, rfl, and_F0FF_formRegByte ..⟩

theorem EncodeRow.stm (x : Reg) : EncodeRow.Statement (.stm x) :=
  ⟨⟨"STM", 0xF0FF#16, 0xF055#16⟩, by decide, rfl, and_F0FF_formRegByte ..⟩

theorem EncodeRow.ldm (x : Reg) : EncodeRow.Statement (.ldm x) :=
  ⟨⟨"LDM", 0xF0FF#16, 0xF065#16⟩, by decide, rfl, and_F0FF_formRegByte ..⟩

end Sys2Proof.Laws
end

