-- ==== Sys2Proof/Laws/Step.lean ====
section
/-! SUPPORT. What one step can do (40_cycle.md R120): one lemma for each way it goes, and the inversion that
says a step which answers a next state went one of these ways. -/

namespace Sys2Proof.Machine

theorem State.settle_of_none {start done : State} (h : done.fault = none) : start.settle done = done.tick := by
  simp [State.settle, h]

theorem State.settle_of_some {start done : State} {f : Fault} (h : done.fault = some f) :
    start.settle done = start.raise f := by
  simp [State.settle, h]

/-- The end of a step keeps the executor's latch. -/
@[simp] theorem State.settle_fault (start done : State) : (start.settle done).fault = done.fault := by
  cases h : done.fault with
  | none => rw [State.settle_of_none h, State.tick_fault, h]
  | some f => rw [State.settle_of_some h]; rfl

theorem State.fetch_of_le {s : State} (h : s.pc.toNat ≤ 0xFFE) :
    s.fetch = some (wordOfBytes (s.mem.read s.pc.toNat) (s.mem.read (s.pc.toNat + 1))) :=
  if_neg (by omega)

theorem State.fetch_of_gt {s : State} (h : 0xFFE < s.pc.toNat) : s.fetch = none := if_pos h

/-- A halted core (R121). -/
theorem step_of_halted {s : State} {f : Fault} (h : s.fault = some f) : step s = .next s := by
  simp [step, h]

/-- A fetch outside memory (R234). -/
theorem step_of_fetch_outside {s : State} (h : s.fault = none) (hpc : 0xFFE < s.pc.toNat) :
    step s = .next (s.raise .fetchOutOfRange) := by
  simp [step, h, State.fetch_of_gt hpc]

/-- A fetch inside memory: the executor runs on the advanced state, and the step is settled. -/
theorem step_of_fetch {s : State} {w : Word} (h : s.fault = none) (hw : s.fetch = some w) :
    step s = finishStep s (executeWord w s.advance) := by
  simp [step, h, hw]

/-- The step of a running core whose next word is the word of `i`. -/
theorem step_of_selects {s : State} {i : Instr} (h : s.fault = none) (hi : s.Selects i) :
    step s = finishStep s (exec i s.advance) := by
  rw [step_of_fetch h (State.fetch_of_le hi.1), executeWord, hi.2]

/-- Such a step, when the executor answers `t`. -/
theorem step_of_exec {s t : State} {i : Instr} (h : s.fault = none) (hi : s.Selects i)
    (ht : exec i s.advance = .next t) : step s = .next (s.settle t) := by
  rw [step_of_selects h hi, ht, finishStep]

/-- Such a step, when the executor completed: its state, ticked (R126). -/
theorem step_of_completes {s t : State} {i : Instr} (h : s.fault = none) (hi : s.Selects i)
    (ht : exec i s.advance = .next t) (hf : t.fault = none) : step s = .next t.tick := by
  rw [step_of_exec h hi ht, State.settle_of_none hf]

/-- Such a step, when the executor raised a fault: the state at its start, with the latch set (R128). -/
theorem step_of_raises {s t : State} {i : Instr} {f : Fault} (h : s.fault = none) (hi : s.Selects i)
    (ht : exec i s.advance = .next t) (hf : t.fault = some f) : step s = .next (s.raise f) := by
  rw [step_of_exec h hi ht, State.settle_of_some hf]

/-- The step of a running core whose next word selects no instruction (R100). -/
theorem step_of_undefined {s : State} {w : Word} {u : Undefined} (h : s.fault = none) (hw : s.fetch = some w)
    (hu : decode w = .error u) : step s = .next s.advance.tick := by
  rw [step_of_fetch h hw, executeWord, hu]
  simp [execNop, finishStep, State.settle, h]

/-- The executor answers a next state for every instruction, with the latch as it was or raised by it. -/
theorem exec_answers (i : Instr) (s : State) :
    ∃ t, exec i s = .next t ∧ (t.fault = s.fault ∨ ∃ f, t = s.raise f) := by
  cases i <;>
    simp only [exec, execCls, execRet, execJp, execCall, execSei, execSnei, execSer, execLdi, execAddi, execMov,
      execOr, execAnd, execXor, execAdd, execSub, execShr, execSubn, execShl, execSner, execLdx, execJpx, execRnd,
      execDrw, execSkp, execSknp, execGdt, execWkey, execSdt, execSst, execAddx, execFont, execBcd, execStm,
      execLdm] <;>
    (try split) <;> refine ⟨_, rfl, ?_⟩ <;>
    simp [State.writeResultThenFlag, State.writeFlagThenResult, State.loadRandom]

/-- Everything a step that answers a next state can have done. -/
theorem step_cases {s t : State} (h : step s = .next t) :
    (∃ f, s.fault = some f ∧ t = s) ∨
    (s.fault = none ∧ 0xFFE < s.pc.toNat ∧ t = s.raise .fetchOutOfRange) ∨
    (∃ w u, s.fault = none ∧ s.fetch = some w ∧ decode w = .error u ∧ t = s.advance.tick) ∨
    (∃ i done, s.fault = none ∧ s.Selects i ∧ exec i s.advance = .next done ∧ t = s.settle done) := by
  cases hf : s.fault with
  | some f =>
    rw [step_of_halted hf] at h
    cases h; exact .inl ⟨f, rfl, rfl⟩
  | none =>
    by_cases hpc : 0xFFE < s.pc.toNat
    · rw [step_of_fetch_outside hf hpc] at h
      cases h; exact .inr (.inl ⟨rfl, hpc, rfl⟩)
    · have hw := State.fetch_of_le (Nat.le_of_not_lt hpc)
      cases hd : decode (wordOfBytes (s.mem.read s.pc.toNat) (s.mem.read (s.pc.toNat + 1))) with
      | error u =>
        rw [step_of_undefined hf hw hd] at h
        cases h; exact .inr (.inr (.inl ⟨_, u, rfl, hw, hd, rfl⟩))
      | ok i =>
        have hi : s.Selects i := ⟨Nat.le_of_not_lt hpc, hd⟩
        rw [step_of_selects hf hi] at h
        cases he : exec i s.advance with
        | next done =>
          rw [he, finishStep] at h
          cases h; exact .inr (.inr (.inr ⟨i, done, rfl, hi, he, rfl⟩))
        | fault f => rw [he, finishStep] at h; cases h
        | refused r => rw [he, finishStep] at h; cases h

/-- The same word is fetched once: two selected instructions are one. -/
theorem State.Selects.unique {s : State} {i j : Instr} (hi : s.Selects i) (hj : s.Selects j) : i = j := by
  have := hi.2.symm.trans hj.2
  cases this; rfl

end Sys2Proof.Machine
end

