-- ==== Sys2Proof/Tests/Slice0.lean ====
section
/-! SUPPORT. The model's own tests. Every word and every expected value is the spec's: the encodings of
30_encoding.md R93 and R94 written out in binary, and the vectors of 95_test_vectors.md part 2 (the section of
each is in the comment above its tests). Then one witness for each statement with hypotheses: a concrete state
and operands that meet all of them, each clause at a boundary of its range. -/

namespace Sys2Proof.Tests

open Sys2Proof Sys2Proof.Machine

/-! ### Helpers -/

/-- The reset state with the word `w` at pc (0x200) and the registers `rs`. -/
def start (w : Nat) (rs : List (Reg × Byte)) : State :=
  let s := State.reset.withFetchWord 16 w
  { s with v := rs.foldl (fun v r => v.set r.1 r.2) s.v }

/-- The reset state with the word `w` at pc `pc`. -/
def startAt (pc : Word) (w : Nat) : State := State.withFetchWord { State.reset with pc := pc } 16 w

/-- `s` with bytes stored from address `a`. -/
def store (s : State) (a : Nat) (bs : List Byte) : State := { s with mem := s.mem.writeBytes a bs }

/-- `s` with the pixels (x, y) of the list inverted. -/
def light (s : State) (ps : List (Nat × Nat)) : State :=
  { s with fb := ps.foldl (fun fb p => fb.toggle p.2 p.1) s.fb }

/-- The outcome is a next state and `p` holds of it. -/
def answers (o : Host.Outcome State Fault Refusal) (p : State → Bool) : Bool :=
  match o with
  | .next t => p t
  | .fault _ => false
  | .refused _ => false

/-- The next state an outcome carries, `s` if it carries none. -/
def nextOr (s : State) (o : Host.Outcome State Fault Refusal) : State :=
  match o with
  | .next t => t
  | .fault _ => s
  | .refused _ => s

/-! ### Well-formedness: BXNN's X must be the top nibble of its NNN (30_encoding.md R105) -/

theorem test_wellFormed_refuses_jpx_with_other_x : Instr.wellFormed (.jpx 3 0x2F0) = false := by decide

theorem test_wellFormed_admits_jpx_with_its_top_nibble : Instr.wellFormed (.jpx 2 0x2F0) = true := by decide

/-! ### Decoding: for every constructor a word written out bit by bit from its format (R93) and row (R94) -/

theorem test_decode_fixed :
    decode 0b0000000011100000 = .ok .cls ∧ decode 0b0000000011101110 = .ok .ret := by decide

theorem test_decode_addr :
    decode 0b0001101010111100 = .ok (.jp 0xABC) ∧ decode 0b0010001100000000 = .ok (.call 0x300) ∧
    decode 0b1010001100000001 = .ok (.ldx 0x301) := by decide

theorem test_decode_xaddr : decode 0b1011001011110001 = .ok (.jpx 0x2 0x2F1) := by decide

theorem test_decode_reg_imm :
    decode 0b0011101001000010 = .ok (.sei 0xA 0x42) ∧ decode 0b0100101101000011 = .ok (.snei 0xB 0x43) ∧
    decode 0b0110010100001010 = .ok (.ldi 0x5 0x0A) ∧ decode 0b0111000111111110 = .ok (.addi 0x1 0xFE) ∧
    decode 0b1100111100111100 = .ok (.rnd 0xF 0x3C) := by decide

theorem test_decode_reg_reg :
    decode 0b0101000100101111 = .ok (.ser 0x1 0x2 0xF) ∧ decode 0b1001000100100111 = .ok (.sner 0x1 0x2 0x7) ∧
    decode 0b1101001101000101 = .ok (.drw 0x3 0x4 0x5) := by decide

theorem test_decode_family8 :
    decode 0b1000001101000000 = .ok (.mov 0x3 0x4) ∧ decode 0b1000001101000001 = .ok (.or 0x3 0x4) ∧
    decode 0b1000001101000010 = .ok (.and 0x3 0x4) ∧ decode 0b1000001101000011 = .ok (.xor 0x3 0x4) ∧
    decode 0b1000001101000100 = .ok (.add 0x3 0x4) ∧ decode 0b1000001101000101 = .ok (.sub 0x3 0x4) ∧
    decode 0b1000001101000110 = .ok (.shr 0x3 0x4) ∧ decode 0b1000001101000111 = .ok (.subn 0x3 0x4) ∧
    decode 0b1000001101001110 = .ok (.shl 0x3 0x4) := by decide

theorem test_decode_familyE :
    decode 0b1110001010011110 = .ok (.skp 0x2) ∧ decode 0b1110001010100001 = .ok (.sknp 0x2) := by decide

theorem test_decode_familyF :
    decode 0b1111001000000111 = .ok (.gdt 0x2) ∧ decode 0b1111001000001010 = .ok (.wkey 0x2) ∧
    decode 0b1111001000010101 = .ok (.sdt 0x2) ∧ decode 0b1111001000011000 = .ok (.sst 0x2) ∧
    decode 0b1111001000011110 = .ok (.addx 0x2) ∧ decode 0b1111001000101001 = .ok (.font 0x2) ∧
    decode 0b1111001000110011 = .ok (.bcd 0x2) ∧ decode 0b1111001001010101 = .ok (.stm 0x2) ∧
    decode 0b1111001001100101 = .ok (.ldm 0x2) := by decide

/-- The no-op words of section 2.1 (R100). -/
theorem test_decode_undefined :
    ([0x0000, 0x0123, 0x00E1, 0x00EF, 0x01E0, 0x0AEE] : List Word).all (decode · = .error .family0) ∧
    ([0x8128, 0x812F] : List Word).all (decode · = .error .family8) ∧
    ([0xE200, 0xE29F] : List Word).all (decode · = .error .familyE) ∧
    ([0xF200, 0xF21F, 0xF234, 0xF2FF, 0xFFFF] : List Word).all (decode · = .error .familyF) := by decide

/-- The word is taken high byte first (20_memory.md R63). -/
theorem test_decodeTableWord_byte_order : decodeTableWord 16 0x6A01 = some (.ldi 0xA 0x01) := by decide

/-! ### No-op, fetch and faults (sections 2.1 and 2.7) -/

theorem test_nop_advances_and_ticks :
    answers (step { start 0x8128 [(1, 0x03), (2, 0x05), (15, 0x07)] with i := 0x0123, dt := 2, st := 2 })
      (fun t => decide (t.pc = 0x202) &&
        decide (t.dt = 1) &&
        decide (t.st = 1) &&
        t.toneActive &&
        decide (t.reg 1 = 0x03) &&
        decide (t.reg 15 = 0x07) &&
        decide (t.i = 0x0123)) = true := by decide

theorem test_fetch_at_odd_pc :
    answers (step (startAt 0xFFD 0x6001))
      (fun t => decide (t.reg 0 = 0x01) &&
        decide (t.pc = 0xFFF) &&
        decide (t.fault = none)) = true := by decide

theorem test_fetch_fault_at_FFF :
    answers (step { State.reset with pc := 0xFFF })
      (fun t => decide (t.pc = 0xFFF) &&
        decide (t.fault = some .fetchOutOfRange)) = true := by decide

theorem test_halted_core_is_unchanged :
    answers (step { start 0x6001 [] with fault := some .stackUnderflow, dt := 3 })
      (fun t => decide (t.pc = 0x200) &&
        decide (t.reg 0 = 0x00) &&
        decide (t.dt = 3) &&
        decide (t.fault = some .stackUnderflow) &&
        !t.toneActive) = true := by decide

/-! ### Control flow and skips (section 2.2) -/

theorem test_ret_pops_the_most_recent :
    answers (step { startAt 0x400 0x00EE with stack := [0x206, 0x300] })
      (fun t => decide (t.pc = 0x300) &&
        decide (t.stack = [0x206])) = true := by decide

theorem test_ret_on_empty_stack :
    answers (step (startAt 0x20C 0x00EE))
      (fun t => decide (t.pc = 0x20C) &&
        decide (t.stack = []) &&
        decide (t.fault = some .stackUnderflow)) = true := by decide

theorem test_jp_odd_target :
    answers (step (start 0x1201 []))
      (fun t => decide (t.pc = 0x201) &&
        decide (t.fault = none)) = true := by decide

theorem test_call_pushes_the_advanced_pc :
    answers (step { startAt 0x204 0x2300 with stack := [0x111] })
      (fun t => decide (t.pc = 0x300) &&
        decide (t.stack = [0x111, 0x206])) = true := by decide

theorem test_call_on_full_stack :
    answers (step { startAt 0x204 0x2300 with stack := List.replicate 16 0x206 })
      (fun t => decide (t.pc = 0x204) &&
        decide (t.stack = List.replicate 16 0x206) &&
        decide (t.fault = some .stackOverflow)) = true := by decide

theorem test_jpx_offset_register_is_the_top_nibble :
    answers (step (start 0xB2F0 [(0, 0x55), (2, 0x10)]))
      (fun t => decide (t.pc = 0x300) &&
        decide (t.fault = none)) = true := by decide

theorem test_jpx_is_not_masked :
    answers (step (start 0xBFFF [(15, 0xFF)]))
      (fun t => decide (t.pc = 0x10FE) &&
        decide (t.fault = none)) = true := by decide

theorem test_sei_equal :
    answers (step (start 0x3A42 [(10, 0x42)]))
      (fun t => decide (t.pc = 0x204)) = true := by decide

theorem test_sei_not_equal :
    answers (step (start 0x3A42 [(10, 0x43)]))
      (fun t => decide (t.pc = 0x202)) = true := by decide

theorem test_snei_equal :
    answers (step (start 0x4A42 [(10, 0x42)]))
      (fun t => decide (t.pc = 0x202)) = true := by decide

theorem test_snei_not_equal :
    answers (step (start 0x4A42 [(10, 0x43)]))
      (fun t => decide (t.pc = 0x204)) = true := by decide

theorem test_ser_low_nibble_ignored :
    answers (step (start 0x512F [(1, 0x07), (2, 0x07)]))
      (fun t => decide (t.pc = 0x204)) = true := by decide

theorem test_ser_not_equal :
    answers (step (start 0x5120 [(1, 0x07), (2, 0x08)]))
      (fun t => decide (t.pc = 0x202)) = true := by decide

theorem test_sner_low_nibble_ignored :
    answers (step (start 0x9127 [(1, 0x07), (2, 0x08)]))
      (fun t => decide (t.pc = 0x204)) = true := by decide

theorem test_sner_same_register :
    answers (step (start 0x9330 [(3, 0x09)]))
      (fun t => decide (t.pc = 0x202)) = true := by decide

theorem test_skp_indexed_key :
    answers (step ((start 0xE29E [(2, 0x0F)]).setKey 15 true))
      (fun t => decide (t.pc = 0x204)) = true := by decide

theorem test_skp_index_above_15 :
    answers (step ((start 0xE29E [(2, 0x10)]).setKey 0 true))
      (fun t => decide (t.pc = 0x200) &&
        decide (t.fault = some .keyIndexOutOfRange)) = true := by decide

theorem test_sknp_pressed :
    answers (step ((start 0xE2A1 [(2, 0x03)]).setKey 3 true))
      (fun t => decide (t.pc = 0x202)) = true := by decide

theorem test_sknp_not_pressed :
    answers (step (start 0xE2A1 [(2, 0x03)]))
      (fun t => decide (t.pc = 0x204)) = true := by decide

/-! ### Register loads and ALU (section 2.3) -/

theorem test_ldi_vf :
    answers (step (start 0x6F01 []))
      (fun t => decide (t.reg 15 = 0x01) &&
        decide (t.pc = 0x202)) = true := by decide

theorem test_addi_wraps_without_flag :
    answers (step (start 0x7105 [(1, 0xFE)]))
      (fun t => decide (t.reg 1 = 0x03) &&
        decide (t.reg 15 = 0x00)) = true := by decide

theorem test_addi_vf_is_the_sum :
    answers (step (start 0x7F01 [(15, 0xFF)]))
      (fun t => decide (t.reg 15 = 0x00)) = true := by decide

theorem test_mov :
    answers (step (start 0x8340 [(3, 0x11), (4, 0x99)]))
      (fun t => decide (t.reg 3 = 0x99) &&
        decide (t.reg 4 = 0x99)) = true := by decide

theorem test_or_keeps_vf :
    answers (step (start 0x8121 [(1, 0xF0), (2, 0x0C), (15, 0x01)]))
      (fun t => decide (t.reg 1 = 0xFC) &&
        decide (t.reg 15 = 0x01)) = true := by decide

theorem test_and_keeps_vf :
    answers (step (start 0x8122 [(1, 0xF0), (2, 0x3C), (15, 0x01)]))
      (fun t => decide (t.reg 1 = 0x30) &&
        decide (t.reg 15 = 0x01)) = true := by decide

theorem test_xor_keeps_vf :
    answers (step (start 0x8123 [(1, 0xF0), (2, 0x3C), (15, 0x01)]))
      (fun t => decide (t.reg 1 = 0xCC) &&
        decide (t.reg 15 = 0x01)) = true := by decide

theorem test_add_carry_from_old_vf :
    answers (step (start 0x80F4 [(0, 0xFF), (15, 0x01)]))
      (fun t => decide (t.reg 0 = 0x00) &&
        decide (t.reg 15 = 0x01)) = true := by decide

theorem test_add_into_vf_keeps_the_flag :
    answers (step (start 0x8F14 [(15, 0x10), (1, 0x20)]))
      (fun t => decide (t.reg 15 = 0x00)) = true := by decide

theorem test_sub_equal_clears_the_flag :
    answers (step (start 0x8125 [(1, 0x05), (2, 0x05), (15, 0x01)]))
      (fun t => decide (t.reg 1 = 0x00) &&
        decide (t.reg 15 = 0x00)) = true := by decide

theorem test_sub_into_vf_keeps_the_result :
    answers (step (start 0x8F15 [(15, 0x03), (1, 0x09)]))
      (fun t => decide (t.reg 15 = 0xFA)) = true := by decide

theorem test_shr_ignores_vy :
    answers (step (start 0x8126 [(1, 0x04), (2, 0xFF), (15, 0x01)]))
      (fun t => decide (t.reg 1 = 0x02) &&
        decide (t.reg 15 = 0x00)) = true := by decide

theorem test_shr_is_logical :
    answers (step (start 0x8106 [(1, 0xFF)]))
      (fun t => decide (t.reg 1 = 0x7F) &&
        decide (t.reg 15 = 0x01)) = true := by decide

theorem test_subn_takes_vy_minus_vx :
    answers (step (start 0x8127 [(1, 0x03), (2, 0x05)]))
      (fun t => decide (t.reg 1 = 0x02) &&
        decide (t.reg 2 = 0x05) &&
        decide (t.reg 15 = 0x01)) = true := by decide

theorem test_subn_old_vf_is_vy :
    answers (step (start 0x81F7 [(1, 0x03), (15, 0x09)]))
      (fun t => decide (t.reg 1 = 0x06) &&
        decide (t.reg 15 = 0x01)) = true := by decide

theorem test_shl_drops_bit_7 :
    answers (step (start 0x810E [(1, 0x81)]))
      (fun t => decide (t.reg 1 = 0x02) &&
        decide (t.reg 15 = 0x01)) = true := by decide

theorem test_shl_into_vf_keeps_the_result :
    answers (step (start 0x8F0E [(15, 0x41)]))
      (fun t => decide (t.reg 15 = 0x82)) = true := by decide

/-- The rows C00F with rnd = A7 and CF3C with rnd = FF; the byte is given, since in a step it is free. -/
theorem test_rnd_masks_the_given_byte :
    ((start 0xC00F [(0, 0x77)]).loadRandom 0 0x0F 0xA7).reg 0 = 0x07 ∧
    ((start 0xCF3C []).loadRandom 15 0x3C 0xFF).reg 15 = 0x3C := by decide

theorem test_rnd_completes :
    answers (step (start 0xC00F [(1, 0x77)]))
      (fun t => decide (t.pc = 0x202) &&
        decide (t.reg 1 = 0x77) &&
        decide (t.fault = none)) = true := by decide

/-! ### Index register and memory (section 2.4) -/

theorem test_ldx :
    answers (step { start 0xAFFF [] with i := 0x1234 })
      (fun t => decide (t.i = 0x0FFF)) = true := by decide

theorem test_addx_is_not_masked :
    answers (step { start 0xF01E [(0, 0x02)] with i := 0x0FFF })
      (fun t => decide (t.i = 0x1001) &&
        decide (t.reg 15 = 0x00)) = true := by decide

theorem test_addx_modulo_65536 :
    answers (step { start 0xF01E [(0, 0xFF)] with i := 0xFF01 })
      (fun t => decide (t.i = 0x0000)) = true := by decide

theorem test_font_low_nibble :
    answers (step (start 0xF529 [(5, 0x1A)]))
      (fun t => decide (t.i = 0x0082)) = true := by decide

theorem test_bcd_at_the_top_of_memory :
    answers (step { start 0xF033 [(0, 0x9C)] with i := 0x0FFD })
      (fun t => decide (t.mem.read 0xFFD = 1) &&
        decide (t.mem.read 0xFFE = 5) &&
        decide (t.mem.read 0xFFF = 6) &&
        decide (t.i = 0x0FFD)) = true := by decide

theorem test_bcd_out_of_range_writes_nothing :
    answers (step { start 0xF033 [(0, 0x07)] with i := 0x0FFE })
      (fun t => decide (t.mem.read 0xFFE = 0x00) &&
        decide (t.mem.read 0xFFF = 0x00) &&
        decide (t.pc = 0x200) &&
        decide (t.fault = some .memOutOfRange)) = true := by decide

theorem test_stm_stores_to_vx :
    answers (step { start 0xF155 [(0, 0xAA), (1, 0xBB), (2, 0xCC)] with i := 0x0400 })
      (fun t => decide (t.mem.read 0x400 = 0xAA) &&
        decide (t.mem.read 0x401 = 0xBB) &&
        decide (t.mem.read 0x402 = 0x00) &&
        decide (t.i = 0x0400)) = true := by decide

theorem test_stm_out_of_range_writes_nothing :
    answers (step { start 0xF155 [(0, 0xAA), (1, 0xBB)] with i := 0x0FFF })
      (fun t => decide (t.mem.read 0xFFF = 0x00) &&
        decide (t.pc = 0x200) &&
        decide (t.fault = some .memOutOfRange)) = true := by decide

theorem test_ldm_loads_to_vx :
    answers (step { store (start 0xF265 [(3, 0x33)]) 0x300 [0x01, 0x05, 0x06, 0x07] with i := 0x0300 })
      (fun t => decide (t.reg 0 = 0x01) &&
        decide (t.reg 1 = 0x05) &&
        decide (t.reg 2 = 0x06) &&
        decide (t.reg 3 = 0x33)) = true := by decide

theorem test_ldm_out_of_range :
    answers (step { start 0xF165 [] with i := 0x0FFF })
      (fun t => decide (t.reg 0 = 0x00) &&
        decide (t.pc = 0x200) &&
        decide (t.fault = some .memOutOfRange)) = true := by decide

/-! ### Display (section 2.5) -/

theorem test_cls :
    answers (step (light (start 0x00E0 []) [(7, 5), (0, 0), (63, 31)]))
      (fun t => decide (t.fb = Framebuffer.blank) &&
        decide (t.pc = 0x202)) = true := by decide

theorem test_drw_clips_glyph_A :
    answers (step { start 0xD345 [(3, 0x3C), (4, 0x1E)] with i := 0x0082 })
      (fun t => decide (t.fb = (light State.reset [(60, 30), (61, 30), (62, 30), (63, 30), (60, 31), (63, 31)]).fb) &&
        decide (t.reg 15 = 0x00)) = true := by decide

theorem test_drw_collision :
    answers (step (light { start 0xD121 [(1, 0x46), (2, 0x21)] with i := 0x0082 } [(6, 1)]))
      (fun t => decide (t.fb.pixel 1 6 = false) &&
        decide (t.fb.pixel 1 7 = true) &&
        decide (t.fb.pixel 1 9 = true) &&
        decide (t.reg 15 = 0x01)) = true := by decide

/-! ### Timers, tick and key wait (section 2.6) -/

theorem test_gdt_reads_before_the_tick :
    answers (step { start 0xF107 [] with dt := 5 })
      (fun t => decide (t.reg 1 = 0x05) &&
        decide (t.dt = 4)) = true := by decide

theorem test_sdt_is_ticked :
    answers (step { start 0xF015 [(0, 0xFF)] with st := 4 })
      (fun t => decide (t.dt = 0xFE) &&
        decide (t.st = 3) &&
        t.toneActive) = true := by decide

theorem test_sst_of_one_is_not_reported :
    answers (step (start 0xF018 [(0, 0x01)]))
      (fun t => decide (t.st = 0) &&
        !t.toneActive) = true := by decide

theorem test_sst_of_two_is_reported :
    answers (step { start 0xF018 [(0, 0x02)] with dt := 1 })
      (fun t => decide (t.st = 1) &&
        decide (t.dt = 0) &&
        t.toneActive) = true := by decide

theorem test_wkey_waits :
    answers (step { startAt 0x206 0xF20A with dt := 1 })
      (fun t => decide (t.pc = 0x206) &&
        decide (t.reg 2 = 0x00) &&
        decide (t.dt = 0)) = true := by decide

theorem test_wkey_takes_the_lowest_key :
    answers (step (((startAt 0x206 0xF20A).setKey 7 true).setKey 3 true))
      (fun t => decide (t.reg 2 = 0x03) &&
        decide (t.pc = 0x208)) = true := by decide

/-! ### Host operations (section 2.8) -/

theorem test_load_changes_only_its_bytes :
    let s := store (startAt 0x300 0x0000) 0x200 [0xA1, 0x23, 0x45, 0x67]
    (s.load [0x12, 0x00]).map (fun t => (t.mem.read 0x200, t.mem.read 0x201, t.mem.read 0x202, t.pc)) =
      some (0x12, 0x00, 0x45, 0x300) := by decide

theorem test_setKey_and_clearKeys :
    let s := (State.reset.setKey 3 true).setKey 7 true
    (s.setKey 3 false).key = (State.reset.setKey 7 true).key ∧ s.clearKeys.key = noKeys := by decide

theorem test_hostReset_leaves_the_halt :
    let t := State.hostReset { startAt 0x20C 0x6001 with fault := some .stackUnderflow, dt := 3 }
    t.pc = 0x200 ∧ t.dt = 0 ∧ t.fault = none ∧ t.mem.read 0x20C = 0x00 ∧ t.mem.read 0x082 = 0xF0 := by decide


/-! ### Witnesses: a state and operands that meet every hypothesis of a statement -/

theorem exists_next {o : Host.Outcome State Fault Refusal} {P : State → Prop} [DecidablePred P]
    (h : answers o (fun t => decide (P t)) = true) : ∃ t, o = .next t ∧ P t := by
  cases o with
  | next t => exact ⟨t, rfl, of_decide_eq_true h⟩
  | fault f => cases h
  | refused r => cases h

/-- `start w rs` selects what `w` decodes to. -/
theorem selects {s : State} {i : Instr} (h : (decide (s.pc.toNat ≤ 0xFFE) && decide
    (decode (wordOfBytes (s.mem.read s.pc.toNat) (s.mem.read (s.pc.toNat + 1))) = .ok i)) = true) :
    s.Selects i := by
  rw [Bool.and_eq_true, decide_eq_true_iff, decide_eq_true_iff] at h
  exact h

theorem witness_DecodeFollowsTheOpcodeMap :
    (⟨"ADD", 0xF00F#16, 0x8004#16⟩ : OpcodeRow) ∈ opcodeMap ∧ (0x8FF4#16 : Word) &&& 0xF00F#16 = 0x8004#16 := by decide

theorem witness_DecodeOfEncodeIsTheInstruction :
    Instr.wellFormed (.jpx 15 0xFFF) = true ∧ Instr.wellFormed (.drw 15 15 15) = true := by decide

theorem witness_EncodeOfDecodeIsTheWord : decode 0xBFFF = .ok (.jpx 15 0xFFF) ∧ decode 0x5FFF = .ok (.ser 15 15 15) := by
  decide

/-- pc at the last address that can fetch. -/
theorem witness_UndefinedWordIsANoOp :
    (startAt 0xFFE 0x812F).Running ∧ (startAt 0xFFE 0x812F).pc.toNat ≤ 0xFFE ∧
    wordOfBytes ((startAt 0xFFE 0x812F).mem.read 0xFFE) ((startAt 0xFFE 0x812F).mem.read 0xFFF) = 0x812F ∧
    undefinedWord 0x812F :=
  ⟨rfl, by decide, by decide, .inr (.inl (by decide))⟩

/-- A step that completes, and one that raises. -/
theorem witness_StepRunsTheDecodedInstruction :
    ((startAt 0xFFE 0x6001).Running ∧ (startAt 0xFFE 0x6001).Selects (.ldi 0 1) ∧
      ∃ t, exec (.ldi 0 1) { startAt 0xFFE 0x6001 with pc := 0xFFE + 2 } = .next t ∧ t.fault = none) ∧
    ((start 0x00EE []).Running ∧ (start 0x00EE []).Selects .ret ∧
      ∃ t, exec .ret { start 0x00EE [] with pc := 0x200 + 2 } = .next t ∧ t.fault = some .stackUnderflow) :=
  ⟨⟨rfl, selects (by decide), exists_next (by decide)⟩, ⟨rfl, selects (by decide), exists_next (by decide)⟩⟩

theorem witness_FetchIsBigEndian :
    (startAt 0xFFE 0x6001).pc.toNat ≤ 0xFFE ∧
    (0x6001 : Word).toNat = 256 * ((startAt 0xFFE 0x6001).mem.read 0xFFE).toNat +
      ((startAt 0xFFE 0x6001).mem.read 0xFFF).toNat := by decide

/-- Two machines with one core state and different draw counters, at an instruction other than CXNN; and a host
operation. -/
theorem witness_CoreStateAndByteDetermineTheNext :
    let s := start 0x6005 []
    let u : State := { s with draws := 7 }
    s.toCoreState = u.toCoreState ∧ s.params = u.params ∧ (∀ x nn, ¬s.Selects (.rnd x nn)) ∧ HostEvent.clearKeys ≠ .step ∧
    (∃ t, applyEvent .step s = .next t ∧ t.reg 0 = 5) ∧ (∃ w, applyEvent .step u = .next w ∧ w.reg 0 = 5) :=
  ⟨rfl, rfl, fun _ _ h => absurd (h.unique (selects (i := .ldi 0 5) (by decide))) (by simp), by simp,
    exists_next (by decide), exists_next (by decide)⟩

theorem witness_WithFetchWordPlacesTheNextWord :
    65535 < 65536 ∧ (startAt 0xFFE 0).Running ∧ (startAt 0xFFE 0).pc.toNat ≤ 0xFFE ∧
    (0xFFD ≠ (startAt 0xFFE 0).pc.toNat ∧ 0xFFD ≠ (startAt 0xFFE 0).pc.toNat + 1) :=
  ⟨by decide, rfl, by decide, by decide⟩

theorem witness_HaltedCoreChangesNothing :
    let s : State := { State.reset with fault := some .keyIndexOutOfRange }
    s.fault = some .keyIndexOutOfRange := rfl

/-- The first pc that cannot fetch. -/
theorem witness_FetchOutsideMemoryRaises :
    State.Running { State.reset with pc := 0xFFF } ∧ 0xFFE < (0xFFF : Word).toNat := ⟨rfl, by decide⟩

theorem witness_FaultingStepChangesOnlyTheLatch :
    (start 0x00EE []).Running ∧ ∃ t, step (start 0x00EE []) = .next t ∧ t.fault = some .stackUnderflow :=
  ⟨rfl, exists_next (by decide)⟩

/-- Each of the five conditions holds in some state the statement covers. -/
theorem witness_FaultsExactlyWhenTheTableSays :
    (State.faultCondition { State.reset with pc := 0xFFF } .fetchOutOfRange) ∧
    (start 0x00EE []).faultCondition .stackUnderflow ∧
    (State.faultCondition { start 0x2300 [] with stack := List.replicate 16 0x202 } .stackOverflow) ∧
    (State.faultCondition { start 0xF033 [] with i := 0xFFE } .memOutOfRange) ∧
    (State.faultCondition { start 0xD12F [(2, 0x1F)] with i := 0xFFF } .memOutOfRange) ∧
    (start 0xE29E [(2, 0x10)]).faultCondition .keyIndexOutOfRange ∧
    (start 0x00EE []).Running ∧ (start 0x00EE []).stack.length ≤ (start 0x00EE []).params.stackDepth ∧
    ∃ t, step (start 0x00EE []) = .next t ∧ t.fault = some .stackUnderflow :=
  ⟨show 0xFFE < (0xFFF : Word).toNat by decide, ⟨selects (by decide), rfl⟩, ⟨0x300, selects (by decide), by decide⟩,
    .inl ⟨0, selects (by decide), by decide⟩,
    .inr (.inr (.inr ⟨1, 2, 15, selects (by decide), by decide, by decide⟩)),
    ⟨2, .inl (selects (by decide)), by decide⟩, rfl, by decide, exists_next (by decide)⟩

/-- A step of FX15 and one of FX18; each is no step of the other. -/
theorem witness_TickFollowsTheInstruction :
    ((start 0xF015 []).Running ∧ (start 0xF015 []).Selects (.sdt 0) ∧ (∀ x, ¬(start 0xF015 []).Selects (.sst x)) ∧
      ∃ t, step (start 0xF015 []) = .next t ∧ t.Running) ∧
    ((start 0xF018 []).Running ∧ (start 0xF018 []).Selects (.sst 0) ∧ (∀ x, ¬(start 0xF018 []).Selects (.sdt x)) ∧
      ∃ t, step (start 0xF018 []) = .next t ∧ t.Running) :=
  ⟨⟨rfl, selects (by decide), fun x h => absurd (h.unique (selects (i := .sdt 0) (by decide))) (by simp),
    exists_next (P := fun t => t.fault = none) (by decide)⟩,
   ⟨rfl, selects (by decide), fun x h => absurd (h.unique (selects (i := .sst 0) (by decide))) (by simp),
    exists_next (P := fun t => t.fault = none) (by decide)⟩⟩

theorem witness_ToneFollowsTheSoundTimer :
    (start 0xF018 [(0, 0x02)]).Running ∧ (start 0xF018 [(0, 0x02)]).Selects (.sst 0) ∧
    ∃ t, step (start 0xF018 [(0, 0x02)]) = .next t ∧ t.st = 1 :=
  ⟨rfl, selects (by decide), exists_next (by decide)⟩

/-- A step that changes each of the fields the statement names. -/
theorem witness_OnlyTheListedInstructionsWrite :
    (∃ t, step { start 0xF055 [(0, 0xAA)] with i := 0x400 } = .next t ∧ t.mem ≠ (start 0xF055 [(0, 0xAA)]).mem) ∧
    (∃ t, step (start 0xA300 []) = .next t ∧ t.i ≠ 0) ∧
    (∃ t, step (start 0x2300 []) = .next t ∧ t.stack ≠ []) ∧
    (∃ t, step { start 0xD121 [] with i := 0x082 } = .next t ∧ t.fb.pixel 0 0 ≠ false) ∧
    (∃ t, step (start 0xC0FF []) = .next t ∧ t.draws ≠ 0) :=
  ⟨exists_next (by decide), exists_next (by decide), exists_next (by decide), exists_next (by decide),
    exists_next (by decide)⟩

/-- A register changed as a result, and VF changed as a flag. -/
theorem witness_OnlySixInstructionsWriteTheFlag :
    (∃ t, exec (.ldi 15 1) State.reset = .next t ∧ t.reg vf ≠ State.reset.reg vf) ∧
    (∃ t, exec (.sub 1 2) (start 0 [(1, 1)]) = .next t ∧ t.reg vf ≠ (start 0 [(1, 1)]).reg vf) :=
  ⟨exists_next (by decide), exists_next (by decide)⟩

theorem witness_EveryStepKeepsTheInvariant :
    (startAt 0xFFE 0x2FFE).Inv ∧ ∃ t, step (startAt 0xFFE 0x2FFE) = .next t ∧ t.stack = [0x1000] :=
  ⟨⟨by decide, by decide, fun a h => (by cases h), by decide, show Config.default.valid = true by decide⟩, exists_next (by decide)⟩

theorem witness_ResetMeetsTheInvariant :
    Config.default.valid = true ∧ Config.Params.valid { Config.default with stackDepth := 1 } = true := by decide

theorem witness_EveryExecutionKeepsTheInvariant :
    (start 0 []).Inv ∧
    ∃ t, runEvents [.load [0x60, 0x05], .setKey 3 true, .step, .clearKeys, .clearDisplay] (start 0 []) = .next t ∧
      t.reg 0 = 5 :=
  ⟨⟨by decide, by decide, fun a h => (by cases h), by decide, show Config.default.valid = true by decide⟩, exists_next (by decide)⟩

theorem witness_ResetLeavesTheConstructionState : (0x04F < 0x050 ∨ 0x09F < 0x04F) ∧ (0x0A0 < 0x050 ∨ 0x09F < 0x0A0) := by
  decide

theorem witness_JumpSetsThePc : (0x1FFF#16 : Word) &&& 0xF000#16 = 0x1000#16 := by decide

theorem witness_OffsetJumpAddsVx : (0xBFFF#16 : Word) &&& 0xF000#16 = 0xB000#16 := by decide

/-- One entry below the depth, and at it. -/
theorem witness_CallPushesTheAdvancedPc :
    (let s : State := { State.reset with stack := List.replicate 15 0x202 };
      s.stack.length < s.params.stackDepth) ∧
    (let s : State := { State.reset with stack := List.replicate 16 0x202 };
      s.stack.length = s.params.stackDepth) := by decide

theorem witness_ReturnPopsTheLastPushed :
    let s : State := { State.reset with stack := [0x206, 0x1000] }
    s.stack = [0x206] ++ [0x1000] ∧ State.reset.stack = [] := ⟨rfl, rfl⟩

/-- CALL 300 at 0xFFE, then a RET placed at the callee. -/
theorem witness_ReturnComesBackAfterTheCall :
    let s := startAt 0xFFE 0x2300
    let u : State := { startAt 0x300 0x00EE with stack := [0x1000] }
    s.Running ∧ s.Selects (.call 0x300) ∧
    ∃ t, step s = .next t ∧ t.Running ∧ u.Running ∧ u.Selects .ret ∧ u.stack = t.stack := by
  obtain ⟨t, ht, h⟩ := exists_next (o := step (startAt 0xFFE 0x2300))
    (P := fun t => t.fault = none ∧ [0x1000] = t.stack) (by decide)
  exact ⟨rfl, selects (by decide), t, ht, h.1, rfl, selects (by decide), h.2⟩

theorem witness_ImmediateSkips :
    (0x3FFF#16 : Word) &&& 0xF000#16 = 0x3000#16 ∧ (0x4FFF#16 : Word) &&& 0xF000#16 = 0x4000#16 := by decide

theorem witness_RegisterSkips :
    (0x5FFF#16 : Word) &&& 0xF000#16 = 0x5000#16 ∧ (0x9FFF#16 : Word) &&& 0xF000#16 = 0x9000#16 := by decide

/-- The last key index, and the first that names no key. -/
theorem witness_KeySkips :
    ((start 0 [(2, 0x0F)]).reg 2).toNat = (15 : Reg).val ∧ 15 < ((start 0 [(2, 0x10)]).reg 2).toNat := by decide

/-- A taken and an untaken skip, at the top of memory. -/
theorem witness_SkipPassesOverOneWord :
    ((startAt 0xFFE 0x3000).Running ∧ (startAt 0xFFE 0x3000).Selects (.sei 0 0) ∧
      (startAt 0xFFE 0x3000).skipTaken (.sei 0 0) = some true) ∧
    ((startAt 0xFFE 0xE09E).Running ∧ (startAt 0xFFE 0xE09E).Selects (.skp 0) ∧
      (startAt 0xFFE 0xE09E).skipTaken (.skp 0) = some false) :=
  ⟨⟨rfl, selects (by decide), by decide⟩, ⟨rfl, selects (by decide), by decide⟩⟩

theorem witness_LoadAndAddImmediate :
    (0x6FFF#16 : Word) &&& 0xF000#16 = 0x6000#16 ∧ (0x7FFF#16 : Word) &&& 0xF000#16 = 0x7000#16 ∧ (1 : Reg) ≠ 0 := by
  decide

theorem witness_CopyAndLogic :
    (0x8FF0#16 : Word) &&& 0xF00F#16 = 0x8000#16 ∧ (0x8FF1#16 : Word) &&& 0xF00F#16 = 0x8001#16 ∧
    (0x8FF2#16 : Word) &&& 0xF00F#16 = 0x8002#16 ∧ (0x8FF3#16 : Word) &&& 0xF00F#16 = 0x8003#16 := by decide

/-- X other than F, and a register that is neither X nor F (the statements of the sum, the differences and the
shifts share these hypotheses). -/
theorem witness_AddWritesSumAndCarry : (14 : Reg) ≠ vf ∧ (0 : Reg) ≠ 14 ∧ (0 : Reg) ≠ vf := by decide

theorem witness_SubtractWritesDifferenceAndFlag : (14 : Reg) ≠ vf ∧ (0 : Reg) ≠ 14 ∧ (0 : Reg) ≠ vf := by decide

theorem witness_ShiftsWriteResultAndBitOut : (14 : Reg) ≠ vf ∧ (0 : Reg) ≠ 14 ∧ (0 : Reg) ≠ vf := by decide

theorem witness_RandomIsMaskedByNn : (0x7F : Byte).getLsbD 7 = false := by decide

theorem witness_LoadIndexAndGlyphAddress :
    (0xAFFF#16 : Word) &&& 0xF000#16 = 0xA000#16 ∧ (0xFF29#16 : Word) &&& 0xF0FF#16 = 0xF029#16 := by decide

/-- The last base at which the digits fit. -/
theorem witness_BcdStoresTheDecimalDigits : (0xFFD : Word).toNat + 2 ≤ 0xFFF ∧ (0xFFC < 0xFFD ∨ 0xFFD + 2 < 0xFFC) := by
  decide

theorem witness_StoreRegistersWritesV0ToVx :
    (0xFF0 : Word).toNat + (15 : Reg).val ≤ 0xFFF ∧ (15 : Reg) ≤ 15 ∧ (0xFEF < 0xFF0 ∨ 0xFF0 + 15 < 0xFEF) := by decide

theorem witness_LoadRegistersReadsV0ToVx : (0xFF0 : Word).toNat + (15 : Reg).val ≤ 0xFFF := by decide

/-- The first base at which each form leaves memory; the draw's by the row it reads before its clip (D23). -/
theorem witness_OutOfRangeAccessRaises :
    0xFFF < (0xFFE : Word).toNat + 2 ∧ 0xFFF < (0xFF1 : Word).toNat + (15 : Reg).val ∧
    (0 < (15 : Nibble).toNat ∧ 0xFFF < (0xFFF : Word).toNat + min ((15 : Nibble).toNat - 1) (32 - 31 % 32)) := by decide

theorem witness_LoadRestoresStoredRegisters :
    let s : State := { start 0 [(0, 0xAA), (1, 0xBB)] with i := 0xFFE }
    s.i.toNat + (1 : Reg).val ≤ 0xFFF ∧ ∃ t u : State, exec (.stm 1) s = .next t ∧ u.mem = t.mem ∧ u.i = s.i := by
  obtain ⟨t, ht, h⟩ := exists_next (o := exec (.stm 1) { start 0 [(0, 0xAA), (1, 0xBB)] with i := 0xFFE })
    (P := fun t => t.i = 0xFFE) (by decide)
  exact ⟨by decide, t, t, ht, rfl, h⟩

theorem witness_BcdDigitsMakeTheByte :
    let s : State := { start 0 [(0, 0xFF)] with i := 0xFFD }
    s.i.toNat + 2 ≤ 0xFFF ∧ ∃ t, exec (.bcd 0) s = .next t ∧ t.mem.read 0xFFD = 2 :=
  ⟨by decide, exists_next (by decide)⟩

/-- FX29 with FA in V5, away from the font in memory. -/
theorem witness_GlyphAIsFoundAfterReset :
    Config.default.valid = true ∧ (start 0xF529 [(5, 0xFA)]).Running ∧ (start 0xF529 [(5, 0xFA)]).Selects (.font 5) ∧
    (∀ a, 0x050 ≤ a → a ≤ 0x09F →
      (start 0xF529 [(5, 0xFA)]).mem.read a = (State.resetWith Config.default).mem.read a) ∧
    ((start 0xF529 [(5, 0xFA)]).reg 5).toNat % 16 = 0xA :=
  ⟨by decide, rfl, selects (by decide), fun _ _ h => Memory.read_writeBytes_of_outside (.inl (Nat.lt_of_le_of_lt h
    (by decide))), by decide⟩

/-- FX55 and FX33 over the two bytes of the next word, each clause. -/
theorem witness_StoreIsSeenByTheNextFetch :
    (let s : State := { start 0xF155 [(0, 0x60), (1, 0x01)] with i := 0x202 };
      s.Running ∧ s.StoresByte 0x202 0x60 ∧ s.StoresByte 0x203 0x01 ∧
        ∃ t, step s = .next t ∧ t.Running ∧ t.pc.toNat = 0x202 ∧ t.pc.toNat + 1 = 0x203) ∧
    (let s : State := { start 0xF033 [(0, 0x9C)] with i := 0x201 };
      s.Running ∧ s.StoresByte 0x202 5 ∧ s.StoresByte 0x203 6 ∧
        ∃ t, step s = .next t ∧ t.Running ∧ t.pc.toNat = 0x202 ∧ t.pc.toNat + 1 = 0x203) :=
  ⟨⟨rfl, .inl ⟨1, 0, selects (by decide), by decide, by decide, by decide⟩,
    .inl ⟨1, 1, selects (by decide), by decide, by decide, by decide⟩,
    exists_next (P := fun t => t.fault = none ∧ t.pc.toNat = 0x202 ∧ t.pc.toNat + 1 = 0x203) (by decide)⟩,
   ⟨rfl, .inr ⟨0, selects (by decide), .inr (.inl (by decide))⟩, .inr ⟨0, selects (by decide), .inr (.inr (by decide))⟩,
    exists_next (P := fun t => t.fault = none ∧ t.pc.toNat = 0x202 ∧ t.pc.toNat + 1 = 0x203) (by decide)⟩⟩

theorem witness_ClearMakesEveryPixelFalse : (0x00E0 : Word) = 0x00E0#16 := rfl

/-- No rows at any I, and the last base of a draw of 15 rows; a bit on a true pixel, and none. -/
theorem witness_DrawTogglesExactlyTheSpriteBits :
    (0 : Nibble).toNat = 0 ∧ (0xFF1 : Word).toNat + min ((15 : Nibble).toNat - 1) (32 - 0 % 32) ≤ 0xFFF ∧
    (let s := light { start 0 [] with i := 0x082 } [(0, 0)];
      s.spritePixel 1 2 5 0 0 = true ∧ s.fb.pixel 0 0 = true) ∧
    (∀ py px, State.reset.spritePixel 1 2 0 py px = true → State.reset.fb.pixel py px = false) :=
  ⟨by decide, by decide, by decide, fun _ _ _ => Framebuffer.pixel_blank ..⟩

theorem witness_DrawingTwiceRestoresTheScreen :
    let s : State := { start 0 [] with i := 0x082 }
    (1 : Reg) ≠ vf ∧ (2 : Reg) ≠ vf ∧ s.Running ∧ ∃ t u : State, exec (.drw 1 2 5) s = .next t ∧ t.Running ∧
      u.mem = t.mem ∧ u.i = t.i ∧ u.reg 1 = t.reg 1 ∧ u.reg 2 = t.reg 2 ∧ u.fb = t.fb ∧ u.Running := by
  obtain ⟨t, ht, h⟩ := exists_next (o := exec (.drw 1 2 5) { start 0 [] with i := 0x082 })
    (P := fun t => t.fault = none) (by decide)
  exact ⟨by decide, by decide, rfl, t, t, ht, h, rfl, rfl, rfl, rfl, rfl, h⟩

/-- Glyph A at column 60 (VX = 0x7C): sprite column 3 of row 0 falls on column 63. -/
theorem witness_DrawAtColumn60DoesNotWrap :
    let s : State := { start 0 [(1, 0x7C)] with i := 0x082 }
    (s.reg 1).toNat % 64 = 60 ∧ (s.mem.read (s.i.toNat + 0)).getLsbD (7 - 3) = true ∧
    ((s.reg 2).toNat % 32 + 0 < 32 ∧ 0 < (5 : Nibble).toNat ∧ 3 < 4) ∧
    ∃ t, exec (.drw 1 2 5) s = .next t ∧ t.fault = none ∧ t.fb.pixel 0 63 ≠ s.fb.pixel 0 63 :=
  ⟨by decide, by decide, by decide, exists_next (by decide)⟩

theorem witness_TimerTransfers :
    (0xFF07#16 : Word) &&& 0xF0FF#16 = 0xF007#16 ∧ (0xFF15#16 : Word) &&& 0xF0FF#16 = 0xF015#16 ∧
    (0xFF18#16 : Word) &&& 0xF0FF#16 = 0xF018#16 := by decide

/-- The lowest key held with another, the highest held alone, and none. -/
theorem witness_KeyWaitTakesTheLowestKey :
    (0xFF0A#16 : Word) &&& 0xF0FF#16 = 0xF00A#16 ∧
    (let s := (State.reset.setKey 0 true).setKey 15 true;
      s.key[(0 : Reg)] = true ∧ ∀ j : Reg, j < 0 → s.key[j] = false) ∧
    (let s := State.reset.setKey 15 true;
      s.key[(15 : Reg)] = true ∧ ∀ j : Reg, j < 15 → s.key[j] = false) ∧
    (∀ k : Reg, State.reset.key[k] = false) := by decide

theorem witness_KeyWaitSpinsInPlace :
    (startAt 0xFFE 0xF20A).Running ∧ (startAt 0xFFE 0xF20A).Selects (.wkey 2) ∧
    ∀ k : Reg, (startAt 0xFFE 0xF20A).key[k] = false := ⟨rfl, selects (by decide), by decide⟩

theorem witness_DelayTimerIsReadBeforeTheTick :
    (startAt 0xFFE 0xFF07).Running ∧ (startAt 0xFFE 0xFF07).Selects (.gdt 15) ∧
    ∃ t, step (startAt 0xFFE 0xFF07) = .next t ∧ t.pc = 0x1000 := ⟨rfl, selects (by decide), exists_next (by decide)⟩

/-- The longest program that fits, and one byte more. -/
theorem witness_LoadCopiesTheProgram :
    (List.replicate 3584 (0 : Byte)).length ≤ 3584 ∧ 3584 < (List.replicate 3585 (0 : Byte)).length ∧
    (0x1FF < 0x200 ∨ 0x200 + 3584 ≤ 0x1FF) ∧ 3583 < 3584 := by
  rw [List.length_replicate, List.length_replicate]; decide

end Sys2Proof.Tests
end

section
/-! The proofs of the family 10_state.md: what an executed instruction can leave (`Effect`), what a whole step
can leave (`step_effect_cases`), and from these the frames, the invariant, reset and determinism. -/

namespace Sys2Proof.Machine

/-! ### What one instruction can leave -/

/-- The states the executor can leave on `s`, by the shape of the update: each constructor says which instructions
make it and what a frame or an invariant needs to know of the values written. -/
inductive Effect (s : State) : Instr → State → Prop
  | raises (i : Instr) (f : Fault) : Effect s i (s.raise f)
  | skips (i : Instr) (c : Bool) : Effect s i (s.skipIf c)
  | rewinds (x : Reg) : Effect s (.wkey x) s.rewind
  | jumps (i : Instr) (w : Word) (hw : w.toNat ≤ 0x10FE) : Effect s i (s.jump w)
  | calls (nnn : Addr) (hroom : s.stack.length < s.params.stackDepth) :
      Effect s (.call nnn) ((s.push s.pc).jump (zextAddr nnn))
  | returns (a : Word) (ha : a ∈ s.stack) : Effect s .ret (s.dropTop.jump a)
  | result {i : Instr} {x : Reg} (hx : writesResult x i) (b : Byte) : Effect s i (s.setReg x b)
  | resultThenFlag {i : Instr} {x : Reg} (hx : writesResult x i) (hi : writesFlag i) (b : Byte) (c : Bool) :
      Effect s i (s.writeResultThenFlag x b c)
  | flagThenResult {i : Instr} {x : Reg} (hx : writesResult x i) (hi : writesFlag i) (b : Byte) (c : Bool) :
      Effect s i (s.writeFlagThenResult x b c)
  | random (x : Reg) (nn : Byte) : Effect s (.rnd x nn) (s.loadRandom x nn s.rnd).consumeRnd
  | loads (x : Reg) (bs : List Byte) (hlen : bs.length = x.val + 1) :
      Effect s (.ldm x) { s with v := loadRegs s.v 0 bs }
  | index {i : Instr} (hi : (∃ nnn, i = .ldx nnn) ∨ ∃ x, i = .addx x ∨ i = .font x) (w : Word) :
      Effect s i (s.setIndex w)
  | stores {i : Instr} (hi : ∃ x, i = .bcd x ∨ i = .stm x) (bs : List Byte)
      (hin : s.ea 0 + bs.length ≤ Config.memSize) : Effect s i (s.storeAtI bs)
  | clears : Effect s .cls s.clearPixels
  | draws (x y : Reg) (n : Nibble) (c : Bool) (fb : Framebuffer) :
      Effect s (.drw x y n) { s.setReg vf (flagByte c) with fb := fb }
  | setsDelay (x : Reg) : Effect s (.sdt x) { s with dt := s.reg x }
  | setsSound (x : Reg) : Effect s (.sst x) { s with st := s.reg x }

theorem zextAddr_le (nnn : Addr) : (zextAddr nnn).toNat ≤ 0x10FE := by
  have := nnn.isLt
  rw [toNat_zextAddr]; omega

/-- R24: the target of BXNN is at most 0xFFF + 0xFF. -/
theorem zextAddr_add_zextByte_le (nnn : Addr) (b : Byte) : (zextAddr nnn + zextByte b).toNat ≤ 0x10FE := by
  have := nnn.isLt
  have := b.isLt
  rw [BitVec.toNat_add, toNat_zextAddr, toNat_zextByte]; omega

/-- Everything the executor can do, instruction by instruction (R125). -/
theorem exec_effect {i : Instr} {s t : State} (h : exec i s = .next t) : Effect s i t := by
  cases i with
  | cls => cases h; exact .clears
  | ret =>
    simp only [exec, execRet] at h
    split at h <;> cases h
    · exact .raises _ _
    · exact .returns _ (List.mem_of_getLast? ‹_›)
  | jp nnn => cases h; exact .jumps _ _ (zextAddr_le nnn)
  | call nnn =>
    simp only [exec, execCall, State.stackFull_iff] at h
    split at h <;> cases h
    · exact .raises _ _
    · exact .calls nnn (Nat.lt_of_not_le ‹_›)
  | jpx x nnn => cases h; exact .jumps _ _ (zextAddr_add_zextByte_le nnn _)
  | sei | snei | ser | sner => cases h; exact .skips _ _
  | skp | sknp =>
    simp only [exec, execSkp, execSknp] at h
    split at h <;> cases h
    · exact .raises _ _
    · exact .skips _ _
  | ldi | addi | mov | or | and | xor | gdt => cases h; exact .result (by rfl) _
  | add => cases h; exact .resultThenFlag (by rfl) (by trivial) _ _
  | sub | shr | subn | shl => cases h; exact .flagThenResult (by rfl) (by trivial) _ _
  | rnd x nn => cases h; exact .random x nn
  | ldx nnn => cases h; exact .index (.inl ⟨nnn, rfl⟩) _
  | addx x => cases h; exact .index (.inr ⟨x, .inl rfl⟩) _
  | font x => cases h; exact .index (.inr ⟨x, .inr rfl⟩) _
  | drw x y n =>
    simp only [exec, execDrw] at h
    split at h <;> cases h
    · exact .draws x y n _ _
    · exact .raises _ _
  | wkey x =>
    simp only [exec, execWkey] at h
    split at h <;> cases h
    · exact .result (by rfl) _
    · exact .rewinds x
  | sdt x => cases h; exact .setsDelay x
  | sst x => cases h; exact .setsSound x
  | bcd x =>
    simp only [exec, execBcd, State.inMemory_iff] at h
    split at h <;> cases h
    · exact .stores ⟨x, .inl rfl⟩ _ (by rw [State.ea_eq, length_decimalDigits, Config.memSize]; omega)
    · exact .raises _ _
  | stm x =>
    simp only [exec, execStm, State.inMemory_iff] at h
    split at h <;> cases h
    · exact .stores ⟨x, .inr rfl⟩ _ (by rw [State.ea_eq, State.length_regsTo, Config.memSize]; omega)
    · exact .raises _ _
  | ldm x =>
    simp only [exec, execLdm] at h
    split at h <;> cases h
    · exact .loads x _ (State.length_bytesAtI ..)
    · exact .raises _ _

/-! ### What one whole step can leave -/

/-- A step that answers `t` changed nothing, or only the latch, or was a no-op inside memory, or completed an
instruction and ticked. -/
theorem step_effect_cases {s t : State} (h : step s = .next t) :
    t = s ∨ (∃ f, t = s.raise f) ∨ (s.pc.toNat ≤ 0xFFE ∧ t = s.advance.tick) ∨
    ∃ i done, s.Selects i ∧ Effect s.advance i done ∧ t = done.tick := by
  obtain ⟨_, _, rfl⟩ | ⟨_, _, rfl⟩ | ⟨w, _, _, hw, _, rfl⟩ | ⟨i, done, _, hi, hexec, rfl⟩ :=
    step_cases h
  · exact .inl rfl
  · exact .inr (.inl ⟨_, rfl⟩)
  · refine .inr (.inr (.inl ⟨Nat.le_of_not_lt fun hpc => ?_, rfl⟩))
    rw [State.fetch_of_gt hpc] at hw
    cases hw
  · cases hf : done.fault with
    | none => exact .inr (.inr (.inr ⟨i, done, hi, exec_effect hexec, State.settle_of_none hf⟩))
    | some f => exact .inr (.inl ⟨f, State.settle_of_some hf⟩)

/-! ### The invariant of R37 -/

/-- The invariant speaks of memory, pc, the stack and the parameters only. -/
theorem State.Inv.congr {s t : State} (h : s.Inv) (hmem : t.mem = s.mem) (hpc : t.pc = s.pc)
    (hstack : t.stack = s.stack) (hparams : t.params = s.params) : t.Inv where
  pc_le := hpc ▸ h.pc_le
  depth := hstack ▸ hparams ▸ h.depth
  entries := hstack ▸ h.entries
  memory := hmem ▸ h.memory
  params := hparams ▸ h.params

/-- A change of pc within R37 (c) keeps the invariant. -/
theorem State.Inv.jump {s : State} (h : s.Inv) {w : Word} (hw : w.toNat ≤ 0x10FE) : (s.jump w).Inv :=
  { h with pc_le := hw }

/-- Pushing an address a successful fetch can leave keeps the invariant while there is room (R37 (d)). -/
theorem State.Inv.push {s : State} (h : s.Inv) {a : Word} (hroom : s.stack.length < s.params.stackDepth)
    (ha : a.toNat ≤ 0x1000) : (s.push a).Inv :=
  { h with
    depth := by simpa using hroom
    entries := by
      intro b hb
      obtain hb | rfl : b ∈ s.stack ∨ b = a := by simpa using hb
      · exact h.entries b hb
      · exact ha }

theorem State.Inv.dropTop {s : State} (h : s.Inv) : s.dropTop.Inv :=
  { h with
    depth := by
      have := h.depth
      rw [State.dropTop_stack, State.dropTop_params, List.length_dropLast]; omega
    entries := fun a ha => h.entries a (List.mem_of_mem_dropLast ha) }

theorem State.Inv.storeAtI {s : State} (h : s.Inv) {bs : List Byte}
    (hin : s.ea 0 + bs.length ≤ Config.memSize) : (s.storeAtI bs).Inv :=
  { h with memory := Memory.wf_writeBytes hin h.memory }

/-- Where a fetch succeeds the advanced pc is between 2 and 0x1000: the addition does not wrap (R122, R123). -/
theorem State.toNat_advance_pc {s : State} (hpc : s.pc.toNat ≤ 0xFFE) :
    s.advance.pc.toNat = s.pc.toNat + 2 := by
  rw [State.advance_pc]; bv_omega

theorem State.Inv.advance {s : State} (h : s.Inv) (hpc : s.pc.toNat ≤ 0xFFE) : s.advance.Inv :=
  h.jump (w := s.pc + 2) (by bv_omega)

/-- An executed instruction keeps the invariant; pc is the advanced one of a successful fetch. -/
theorem Effect.keeps_inv {s t : State} {i : Instr} (h : Effect s i t) (hs : s.Inv) (hlo : 2 ≤ s.pc.toNat)
    (hhi : s.pc.toNat ≤ 0x1000) : t.Inv := by
  cases h with
  | skips i c =>
    rw [State.skipIf_eq]
    refine hs.jump ?_
    split
    · bv_omega
    · omega
  | rewinds x => exact hs.jump (by bv_omega)
  | jumps i w hw => exact hs.jump hw
  | calls nnn hroom => exact (hs.push hroom hhi).jump (zextAddr_le nnn)
  | returns a ha => exact hs.dropTop.jump (by have := hs.entries a ha; omega)
  | stores hi bs hin => exact hs.storeAtI hin
  | _ => exact hs.congr rfl rfl rfl rfl

/-- Settles O17: the four ways of a step, with `Effect.keeps_inv` for a completed instruction. -/
theorem everyStepKeepsTheInvariant : Obligations.EveryStepKeepsTheInvariant := by
  intro s t hs h
  obtain rfl | ⟨f, rfl⟩ | ⟨hpc, rfl⟩ | ⟨i, done, hi, heffect, rfl⟩ := step_effect_cases h
  · exact hs
  · exact hs.congr rfl rfl rfl rfl
  · exact (hs.advance hpc).congr rfl rfl rfl rfl
  · have hpc : s.pc.toNat ≤ 0xFFE := hi.1
    have hadvance := State.toNat_advance_pc hpc
    exact (heffect.keeps_inv (hs.advance hpc) (by omega) (by omega)).congr rfl rfl rfl rfl

/-! ### Which instructions write which item (R20) -/

section
variable {s t : State} {i : Instr} (h : Effect s i t)
include h

theorem Effect.mem_eq_or : t.mem = s.mem ∨ ∃ x, i = .bcd x ∨ i = .stm x := by
  cases h with
  | stores hi => exact .inr hi
  | skips => exact .inl (State.skipIf_mem ..)
  | _ => exact .inl rfl

theorem Effect.i_eq_or : t.i = s.i ∨ (∃ nnn, i = .ldx nnn) ∨ ∃ x, i = .addx x ∨ i = .font x := by
  cases h with
  | index hi => exact .inr hi
  | skips => exact .inl (State.skipIf_i ..)
  | _ => exact .inl rfl

theorem Effect.stack_eq_or : t.stack = s.stack ∨ i = .ret ∨ ∃ nnn, i = .call nnn := by
  cases h with
  | returns => exact .inr (.inl rfl)
  | calls nnn => exact .inr (.inr ⟨nnn, rfl⟩)
  | skips => exact .inl (State.skipIf_stack ..)
  | _ => exact .inl rfl

theorem Effect.fb_eq_or : t.fb = s.fb ∨ i = .cls ∨ ∃ x y n, i = .drw x y n := by
  cases h with
  | clears => exact .inr (.inl rfl)
  | draws x y n => exact .inr (.inr ⟨x, y, n, rfl⟩)
  | skips => exact .inl (State.skipIf_fb ..)
  | _ => exact .inl rfl

theorem Effect.key_eq : t.key = s.key := by
  cases h with
  | skips => exact State.skipIf_key ..
  | _ => rfl

theorem Effect.params_eq : t.params = s.params := by
  cases h with
  | skips => exact State.skipIf_params ..
  | _ => rfl

theorem Effect.draws_eq_or : t.draws = s.draws ∨ ∃ x nn, i = .rnd x nn := by
  cases h with
  | random x nn => exact .inr ⟨x, nn, rfl⟩
  | skips => exact .inl (State.skipIf_draws ..)
  | _ => exact .inl rfl

/-- R20, R22: a register is a result of the instruction, or VF of one of the six, or kept. -/
theorem Effect.reg_eq_or (r : Reg) : t.reg r = s.reg r ∨ writesResult r i ∨ (r = vf ∧ writesFlag i) := by
  cases h with
  | result hx b =>
    rw [State.reg_setReg]
    split
    · subst r; exact .inr (.inl hx)
    · exact .inl rfl
  | resultThenFlag hx hi b c =>
    rw [State.writeResultThenFlag_reg]
    split
    · exact .inr (.inr ⟨‹_›, hi⟩)
    · split
      · subst r; exact .inr (.inl hx)
      · exact .inl rfl
  | flagThenResult hx hi b c =>
    rw [State.writeFlagThenResult_reg]
    split
    · subst r; exact .inr (.inl hx)
    · split
      · exact .inr (.inr ⟨‹_›, hi⟩)
      · exact .inl rfl
  | random x nn =>
    rw [State.reg_consumeRnd, State.loadRandom, State.reg_setReg]
    split
    · exact .inr (.inl ‹_›)
    · exact .inl rfl
  | loads x bs hlen =>
    rw [State.reg_eq, loadRegs_get]
    split
    · exact .inr (.inl (Fin.le_def.mpr (by omega)))
    · exact .inl rfl
  | draws x y n c fb =>
    have hreg := State.reg_setReg s vf r (flagByte c)
    by_cases hr : r = vf
    · exact .inr (.inr ⟨hr, trivial⟩)
    · rw [if_neg hr] at hreg; exact .inl hreg
  | skips => exact .inl (State.reg_skipIf ..)
  | _ => exact .inl rfl

end

/-- Settles O16, by the registers each effect of the executor writes. -/
theorem onlySixInstructionsWriteTheFlag : Obligations.OnlySixInstructionsWriteTheFlag := by
  intro i s t r h hne
  exact ((exec_effect h).reg_eq_or r).resolve_left hne

/-- Settles O15: a step that completes no instruction changes none of the seven, and a completed one changes what
its effect does. -/
theorem onlyTheListedInstructionsWrite : Obligations.OnlyTheListedInstructionsWrite := by
  intro s t h
  obtain rfl | ⟨f, rfl⟩ | ⟨_, rfl⟩ | ⟨i, done, hi, heffect, rfl⟩ := step_effect_cases h
  · simp
  · simp
  · simp
  · refine ⟨fun hne => ?_, fun hne => ?_, fun hne => ?_, fun hne => ?_, heffect.key_eq, heffect.params_eq,
      fun hne => ?_⟩
    · obtain ⟨x, rfl | rfl⟩ := heffect.mem_eq_or.resolve_left hne
      · exact ⟨x, .inl hi⟩
      · exact ⟨x, .inr hi⟩
    · obtain ⟨nnn, rfl⟩ | ⟨x, rfl | rfl⟩ := heffect.i_eq_or.resolve_left hne
      · exact .inl ⟨nnn, hi⟩
      · exact .inr ⟨x, .inl hi⟩
      · exact .inr ⟨x, .inr hi⟩
    · obtain rfl | ⟨nnn, rfl⟩ := heffect.stack_eq_or.resolve_left hne
      · exact .inl hi
      · exact .inr ⟨nnn, hi⟩
    · obtain rfl | ⟨x, y, n, rfl⟩ := heffect.fb_eq_or.resolve_left hne
      · exact .inl hi
      · exact .inr ⟨x, y, n, hi⟩
    · obtain ⟨x, nn, rfl⟩ := heffect.draws_eq_or.resolve_left hne
      exact ⟨x, nn, hi⟩

/-! ### Reset (R34) -/

/-- The bytes reset copies are the glyphs laid end to end. -/
theorem fontBytes_eq_flatten (font : Config.Font) : fontBytes font = font.flatten.toList := by
  simp only [fontBytes, Vector.flatten, List.flatMap_def, Vector.toList, Array.toList_flatten, Array.toList_map,
    List.map_map]
  rfl

@[simp] theorem length_fontBytes (font : Config.Font) : (fontBytes font).length = 80 := by
  rw [fontBytes_eq_flatten, Vector.length_toList]

theorem getD_fontBytes (font : Config.Font) (d : Fin 16) (k : Fin 5) :
    (fontBytes font).getD (5 * d.val + k.val) 0 = font[d][k] := by
  have hlt : 5 * d.val + k.val < 16 * 5 := by omega
  have hdiv : (5 * d.val + k.val) / 5 = d.val := by omega
  have hmod : (5 * d.val + k.val) % 5 = k.val := by omega
  rw [fontBytes_eq_flatten, List.getD_eq_getElem _ _ (by simpa using hlt), Vector.getElem_toList,
    Vector.getElem_flatten hlt]
  simp only [hdiv, hmod, Fin.getElem_fin]

theorem State.resetWith_read (p : Config.Params) (a : Nat) : (State.resetWith p).mem.read a =
    if 0x050 ≤ a ∧ a < 0x0A0 then (fontBytes p.font).getD (a - 0x050) 0 else 0 := by
  have h := Memory.read_cellsFrom (fontBytes p.font) Config.fontBase a
  rwa [length_fontBytes] at h

/-- Settles O20: the font region read through `getD_fontBytes`, the rest by definition of the reset state. -/
theorem resetLeavesTheConstructionState : Obligations.ResetLeavesTheConstructionState := by
  intro p
  refine ⟨fun d k => ?_, fun a ha => ?_, fun r => ?_, rfl, rfl, rfl, rfl, rfl, fun py px => ?_,
    fun k => ?_, rfl, rfl⟩
  · rw [State.resetWith_read, if_pos (by omega), ← getD_fontBytes]
    congr 1; omega
  · rw [State.resetWith_read, if_neg (by omega)]
  · simp [State.reg, State.resetWith]
  · exact Framebuffer.pixel_blank py px
  · simp [State.pressed, State.resetWith, noKeys]

theorem State.resetWith_inv {p : Config.Params} (hp : p.valid = true) : (State.resetWith p).Inv where
  pc_le := show (0x200#16 : Word).toNat ≤ 0x10FE by decide
  depth := Nat.zero_le _
  entries := fun a ha => absurd ha List.not_mem_nil
  memory := Memory.wfFrom_mono (Nat.zero_le _)
    (Memory.wfFrom_cellsFrom (a := Config.fontBase) (by rw [length_fontBytes]; decide))
  params := hp

/-- Settles O18: the font's 80 bytes from 0x050 lie inside memory, and the default parameters are valid. -/
theorem resetMeetsTheInvariant : Obligations.ResetMeetsTheInvariant :=
  ⟨fun _ => State.resetWith_inv, State.resetWith_inv (p := Config.default) (by decide)⟩

/-! ### Determinism: the draw counter reaches the core by the random byte only -/

/-- The machine with another index of the next random input. -/
def State.withDraws (s : State) (n : Nat) : State := { s with draws := n }

@[simp] theorem State.withDraws_toCoreState (s : State) (n : Nat) :
    (s.withDraws n).toCoreState = s.toCoreState := rfl
@[simp] theorem State.withDraws_params (s : State) (n : Nat) : (s.withDraws n).params = s.params := rfl
@[simp] theorem State.withDraws_top (s : State) (n : Nat) : (s.withDraws n).top = s.top := rfl
@[simp] theorem State.withDraws_lowestKey (s : State) (n : Nat) : (s.withDraws n).lowestKey = s.lowestKey := rfl
@[simp] theorem State.withDraws_rnd (s : State) (n : Nat) : (s.withDraws n).rnd = Config.rnd n := rfl
@[simp] theorem State.reg_withDraws (s : State) (n : Nat) (r : Reg) : (s.withDraws n).reg r = s.reg r := rfl

/-- Machines that agree in core and parameters differ at most in the draw counter. -/
theorem State.eq_withDraws {s u : State} (hcore : s.toCoreState = u.toCoreState)
    (hparams : s.params = u.params) : u = s.withDraws u.draws :=
  State.eq_of_core hcore.symm hparams.symm rfl

theorem State.skipIf_withDraws (s : State) (n : Nat) (c : Bool) :
    (s.withDraws n).skipIf c = (s.skipIf c).withDraws n := by
  cases c <;> rfl

/-- An outcome whose next state has another draw counter. -/
def outcomeWithDraws (n : Nat) : Host.Outcome State Fault Refusal → Host.Outcome State Fault Refusal
  | .next t => .next (t.withDraws n)
  | .fault f => .fault f
  | .refused r => .refused r

/-- No instruction but CXNN reads or moves the draw counter. -/
theorem exec_withDraws {i : Instr} (hi : ∀ x nn, i ≠ .rnd x nn) (s : State) (n : Nat) :
    exec i (s.withDraws n) = outcomeWithDraws n (exec i s) := by
  cases i with
  | rnd x nn => exact absurd rfl (hi x nn)
  | sei | snei | ser | sner => exact congrArg Host.Outcome.next (State.skipIf_withDraws ..)
  | call | drw | bcd | stm | ldm =>
    simp only [exec, execCall, execDrw, execBcd, execStm, execLdm, apply_ite (outcomeWithDraws n)]
    rfl
  | ret =>
    simp only [exec, execRet, State.withDraws_top]
    cases s.top <;> rfl
  | skp x | sknp x =>
    simp only [exec, execSkp, execSknp, State.reg_withDraws]
    cases keyIndex (s.reg x) with
    | none => rfl
    | some k => exact congrArg Host.Outcome.next (State.skipIf_withDraws ..)
  | wkey x =>
    simp only [exec, execWkey, State.withDraws_lowestKey]
    cases s.lowestKey <;> rfl
  | _ => rfl

/-- CXNN given the same byte differs in the draw counter only. -/
theorem execRnd_withDraws {s : State} {n : Nat} (hbyte : Config.rnd s.draws = Config.rnd n) (x : Reg)
    (nn : Byte) : exec (.rnd x nn) (s.withDraws n) = outcomeWithDraws (n + 1) (exec (.rnd x nn) s) := by
  simp only [exec, execRnd, State.withDraws_rnd, ← hbyte]
  rfl

/-- The executor does the same under another draw counter, if CXNN gets the same byte. -/
theorem exec_next_withDraws {i : Instr} {s t : State} {n : Nat} (h : exec i s = .next t)
    (hbyte : Config.rnd s.draws = Config.rnd n ∨ ∀ x nn, i ≠ .rnd x nn) :
    ∃ m, exec i (s.withDraws n) = .next (t.withDraws m) := by
  by_cases hi : ∃ x nn, i = .rnd x nn
  · obtain ⟨x, nn, rfl⟩ := hi
    have hrnd := hbyte.resolve_right fun hne => hne x nn rfl
    exact ⟨n + 1, by rw [execRnd_withDraws hrnd, h]; rfl⟩
  · exact ⟨n, by rw [exec_withDraws fun x nn hx => hi ⟨x, nn, hx⟩, h]; rfl⟩

/-- The end of a step reads the latch only, so the draw counters pass through it. -/
theorem State.settle_withDraws (s done : State) (n m : Nat) :
    ∃ k, (s.withDraws n).settle (done.withDraws m) = (s.settle done).withDraws k := by
  cases hf : done.fault with
  | none =>
    refine ⟨m, ?_⟩
    rw [State.settle_of_none hf, State.settle_of_none (done := done.withDraws m) hf]
    rfl
  | some f =>
    refine ⟨n, ?_⟩
    rw [State.settle_of_some hf, State.settle_of_some (done := done.withDraws m) hf]
    rfl

/-- A whole step does the same under another draw counter, if a CXNN it selects gets the same byte. -/
theorem step_withDraws {s t : State} {n : Nat} (h : step s = .next t)
    (hbyte : Config.rnd s.draws = Config.rnd n ∨ ∀ x nn, ¬s.Selects (.rnd x nn)) :
    ∃ m, step (s.withDraws n) = .next (t.withDraws m) := by
  obtain ⟨f, hf, rfl⟩ | ⟨hf, hpc, rfl⟩ | ⟨w, u, hf, hw, hu, rfl⟩ | ⟨i, done, hf, hi, hexec, rfl⟩ :=
    step_cases h
  · exact ⟨n, step_of_halted hf⟩
  · exact ⟨n, step_of_fetch_outside hf hpc⟩
  · exact ⟨n, step_of_undefined hf hw hu⟩
  · obtain ⟨m, hm⟩ := exec_next_withDraws (n := n) hexec
      (hbyte.imp_right fun hnot x nn hx => hnot x nn (hx ▸ hi))
    obtain ⟨k, hk⟩ := s.settle_withDraws done n m
    exact ⟨k, hk ▸ step_of_exec hf hi hm⟩

/-- Every event does the same under another draw counter, if the CXNN of a step gets the same byte. -/
theorem applyEvent_withDraws {e : HostEvent} {s t : State} {n : Nat} (h : applyEvent e s = .next t)
    (hbyte : Config.rnd s.draws = Config.rnd n ∨ e ≠ .step ∨ ∀ x nn, ¬s.Selects (.rnd x nn)) :
    ∃ m, applyEvent e (s.withDraws n) = .next (t.withDraws m) := by
  cases e with
  | step => exact step_withDraws h (hbyte.imp_right fun hor => hor.resolve_left fun hne => hne rfl)
  | load bytes =>
    cases h
    refine ⟨n, congrArg Host.Outcome.next ?_⟩
    simp only [State.load]
    split <;> rfl
  | reset | setKey | clearKeys | clearDisplay => cases h; exact ⟨n, rfl⟩

/-- Settles O59: the second machine is the first with another draw counter, and every event respects that. -/
theorem coreStateAndByteDetermineTheNext : Obligations.CoreStateAndByteDetermineTheNext := by
  intro e s u t w hcore hparams hbyte ht hw
  obtain ⟨m, hm⟩ := applyEvent_withDraws (n := u.draws) ht hbyte
  rw [← State.eq_withDraws hcore hparams, hw] at hm
  cases hm
  exact ⟨(t.withDraws_toCoreState m).symm, (t.withDraws_params m).symm⟩

end Sys2Proof.Machine
end

section
/-! The proofs of the family 20_memory.md: the fetched word as a number, the glyph FX29 points at, and the bytes a
completed FX33 or FX55 leaves for the next fetch. -/

namespace Sys2Proof.Machine

/-! ### The fetch as a number (R63, R122) -/

/-- R63. -/
theorem toNat_wordOfBytes_bigEndian (hi lo : Byte) : (wordOfBytes hi lo).toNat = 256 * hi.toNat + lo.toNat := by
  rw [toNat_wordOfBytes, Nat.mul_comm]

theorem State.exists_fetch_of_le {s : State} (hpc : s.pc.toNat ≤ 0xFFE) : ∃ w, s.fetch = some w ∧
    w.toNat = 256 * (s.mem.read s.pc.toNat).toNat + (s.mem.read (s.pc.toNat + 1)).toNat :=
  ⟨_, State.fetch_of_le hpc, toNat_wordOfBytes_bigEndian _ _⟩

/-- Settles O58: a word is determined by its value, so the word of that value is the one the step decodes. -/
theorem fetchIsBigEndian : Obligations.FetchIsBigEndian := by
  refine ⟨toNat_wordOfBytes_bigEndian, fun _ => State.exists_fetch_of_le, fun s w i hpc hw => ?_⟩
  have hword : wordOfBytes (s.mem.read s.pc.toNat) (s.mem.read (s.pc.toNat + 1)) = w :=
    BitVec.eq_of_toNat_eq ((toNat_wordOfBytes_bigEndian _ _).trans hw.symm)
  rw [State.Selects, hword]
  exact and_iff_right hpc

/-! ### The glyph A (R62, R182) -/

/-- For every valid choice of FONT the glyph A of reset memory is the source's. -/
theorem State.resetWith_read_glyphA {p : Config.Params} (hp : p.valid = true) (k : Fin 5) :
    (State.resetWith p).mem.read (0x082 + k.val) = Config.glyphA[k] := by
  have hA : p.font[0xA] = Config.glyphA := by
    rw [Config.Params.valid, Bool.and_eq_true, decide_eq_true_iff, decide_eq_true_iff] at hp
    exact hp.2
  obtain ⟨hfont, -⟩ := resetLeavesTheConstructionState p
  exact (hfont 0xA k).trans (congrArg (·[k]) hA)

theorem glyphAddr_of_digit_A {b : Byte} (h : b.toNat % 16 = 0xA) : glyphAddr b = 0x082 :=
  BitVec.eq_of_toNat_eq (by rw [toNat_glyphAddr, h]; rfl)

/-- FX29 always completes; besides the advance and the tick it changes I alone (R182). -/
theorem step_of_selects_font {s : State} {x : Reg} (hs : s.Running) (hi : s.Selects (.font x)) :
    step s = .next (s.advance.setIndex (glyphAddr (s.reg x))).tick :=
  step_of_completes hs hi rfl hs

/-- Settles O44: the step leaves memory alone, and the five bytes at 0x082 lie in the font region. -/
theorem glyphAIsFoundAfterReset : Obligations.GlyphAIsFoundAfterReset := by
  intro p x s hp hs hi hfont hdigit
  have hglyph (k : Fin 5) : s.mem.read (0x082 + k.val) = Config.glyphA[k] := by
    rw [hfont _ (by omega) (by omega), State.resetWith_read_glyphA hp]
  refine ⟨_, step_of_selects_font hs hi, hs, glyphAddr_of_digit_A hdigit, ?_⟩
  rw [State.tick_i, State.setIndex_i, glyphAddr_of_digit_A hdigit]
  exact ⟨hglyph 0, hglyph 1, hglyph 2, hglyph 3, hglyph 4⟩

/-! ### What a completed store leaves (R183, R184, R266) -/

theorem State.read_storeAtI {s : State} {bs : List Byte} {k : Nat} (hk : k < bs.length) :
    (s.storeAtI bs).mem.read (s.i.toNat + k) = bs.getD k 0 := by
  rw [State.storeAtI_mem, State.ea_eq, Nat.add_zero, Memory.read_writeBytes, if_pos (by omega),
    Nat.add_sub_cancel_left]

/-- A completed step of an instruction that checks `I + last` and stores `bs` at I: the check passed, and the
bytes are in memory. -/
theorem step_store_completes {i : Instr} {s t : State} {last : Nat} {bs : List Byte} (hs : s.Running)
    (hi : s.Selects i)
    (hexec : exec i s.advance = if s.advance.inMemory last then .next (s.advance.storeAtI bs)
      else .next (s.advance.raise .memOutOfRange))
    (hstep : step s = .next t) (ht : t.Running) :
    s.i.toNat + last ≤ 0xFFF ∧ ∀ k < bs.length, t.mem.read (s.i.toNat + k) = bs.getD k 0 := by
  by_cases hin : s.advance.inMemory last = true
  · rw [if_pos hin] at hexec
    cases (step_of_completes hs hi hexec hs).symm.trans hstep
    exact ⟨(State.inMemory_iff _ _).mp hin, fun k hk => State.read_storeAtI hk⟩
  · rw [if_neg hin] at hexec
    cases (step_of_raises hs hi hexec rfl).symm.trans hstep
    cases ht

/-- The three digits as numbers (R183). -/
theorem toNat_decimalDigits (b : Byte) : ((decimalDigits b).getD 0 0).toNat = b.toNat / 100 ∧
    ((decimalDigits b).getD 1 0).toNat = b.toNat / 10 % 10 ∧ ((decimalDigits b).getD 2 0).toNat = b.toNat % 10 := by
  have := b.isLt
  refine ⟨Nat.mod_eq_of_lt ?_, Nat.mod_eq_of_lt ?_, Nat.mod_eq_of_lt ?_⟩ <;> omega

/-- What a completed step stores is inside memory and is there after it. -/
theorem State.StoresByte.read_after_step {s t : State} {a b : Nat} (hst : s.StoresByte a b) (hs : s.Running)
    (hstep : step s = .next t) (ht : t.Running) : a ≤ 0xFFF ∧ (t.mem.read a).toNat = b := by
  obtain ⟨x, r, hi, hr, rfl, rfl⟩ | ⟨x, hi, hdigit⟩ := hst
  · obtain ⟨hin, hread⟩ := step_store_completes hs hi rfl hstep ht
    have hrx : r.val ≤ x.val := hr
    rw [hread r.val (by rw [State.length_regsTo]; omega), State.getD_regsTo _ hr, State.reg_advance]
    exact ⟨by omega, rfl⟩
  · obtain ⟨hin, hread⟩ := step_store_completes hs hi rfl hstep ht
    rw [State.reg_advance, length_decimalDigits] at hread
    obtain ⟨hhundreds, htens, hones⟩ := toNat_decimalDigits (s.reg x)
    obtain ⟨rfl, rfl⟩ | ⟨rfl, rfl⟩ | ⟨rfl, rfl⟩ := hdigit
    · exact ⟨by omega, (congrArg BitVec.toNat (hread 0 (by decide))).trans hhundreds⟩
    · exact ⟨by omega, (congrArg BitVec.toNat (hread 1 (by decide))).trans htens⟩
    · exact ⟨by omega, (congrArg BitVec.toNat (hread 2 (by decide))).trans hones⟩

/-- Settles O45: the fetch reads the memory the store left, and the stored byte is the high or the low byte of
the word by the address it lies at. -/
theorem storeIsSeenByTheNextFetch : Obligations.StoreIsSeenByTheNextFetch := by
  intro s t a b hs hst hstep ht
  obtain ⟨ha, hread⟩ := hst.read_after_step hs hstep ht
  constructor
  · rintro rfl hpc
    obtain ⟨w, hw, hval⟩ := State.exists_fetch_of_le hpc
    have := (t.mem.read (t.pc.toNat + 1)).isLt
    exact ⟨w, hw, by omega⟩
  · rintro rfl
    obtain ⟨w, hw, hval⟩ := State.exists_fetch_of_le (s := t) (by omega)
    have := (t.mem.read (t.pc.toNat + 1)).isLt
    exact ⟨w, hw, by omega⟩

end Sys2Proof.Machine
end

section
/-! The proofs of the family 30_encoding.md: the decoder against the opcode map, and the words that select no
instruction. -/

namespace Sys2Proof.Laws

/-- The encoder's word of every instruction lies in the instruction's own row. -/
theorem EncodeRow.holds (i : Instr) : EncodeRow.Statement i := by
  cases i
  exacts [cls, ret, jp _, call _, sei _ _, snei _ _, ser _ _ _, ldi _ _, addi _ _, mov _ _, or _ _, and _ _,
    xor _ _, add _ _, sub _ _, shr _ _, subn _ _, shl _ _, sner _ _ _, ldx _, jpx _ _, rnd _ _, drw _ _ _,
    skp _, sknp _, gdt _, wkey _, sdt _, sst _, addx _, font _, bcd _, stm _, ldm _]

end Sys2Proof.Laws

namespace Sys2Proof

/-! ### The form of a word some of whose fields are known (R93) -/

section
variable {w : Word} {c : Nibble}

theorem formAddr_of_opClass (hc : opClass w = c) : formAddr c (fieldNNN w) = w := by
  rw [← hc, formAddr_fields]

theorem formRegByte_of_opClass (hc : opClass w = c) : formRegByte c (fieldX w) (fieldNN w) = w := by
  rw [← hc, formRegByte_fields]

theorem formRegReg_of_opClass (hc : opClass w = c) : formRegReg c (fieldX w) (fieldY w) (fieldN w) = w := by
  rw [← hc, formRegReg_fields]

end

/-! ### The decoder by class (R94 to R99) -/

/-- The classes without a secondary field (R94). -/
def singleClasses : List Nibble :=
  [0x1#4, 0x2#4, 0x3#4, 0x4#4, 0x5#4, 0x6#4, 0x7#4, 0x9#4, 0xA#4, 0xB#4, 0xC#4, 0xD#4]

theorem class_cases : ∀ c : Nibble,
    c = 0x0#4 ∨ c = 0x8#4 ∨ c = 0xE#4 ∨ c = 0xF#4 ∨ c ∈ singleClasses := by decide

theorem decode_of_class0 {w : Word} (h : opClass w = 0x0#4) : decode w = decodeFamily0 w := by rw [decode, h]; rfl
theorem decode_of_class8 {w : Word} (h : opClass w = 0x8#4) : decode w = decodeFamily8 w := by rw [decode, h]; rfl
theorem decode_of_classE {w : Word} (h : opClass w = 0xE#4) : decode w = decodeFamilyE w := by rw [decode, h]; rfl
theorem decode_of_classF {w : Word} (h : opClass w = 0xF#4) : decode w = decodeFamilyF w := by rw [decode, h]; rfl

/-- Every word of the class `c` selects the one instruction of mnemonic `m`, all its bits kept. -/
def SelectsByClass (c : Nibble) (m : String) : Prop :=
  ∀ w, opClass w = c → ∃ i, decode w = .ok i ∧ mnemonic i = m ∧ encode i = w

theorem selectsByClass_of_mem : ∀ c ∈ singleClasses, ∃ m, SelectsByClass c m := by
  simp only [singleClasses, List.forall_mem_cons]
  exact
    ⟨⟨"JP", fun w h => ⟨.jp (fieldNNN w), by rw [decode, h]; rfl, rfl, formAddr_of_opClass h⟩⟩,
     ⟨"CALL", fun w h => ⟨.call (fieldNNN w), by rw [decode, h]; rfl, rfl, formAddr_of_opClass h⟩⟩,
     ⟨"SEI", fun w h => ⟨.sei (fieldX w) (fieldNN w), by rw [decode, h]; rfl, rfl, formRegByte_of_opClass h⟩⟩,
     ⟨"SNEI", fun w h => ⟨.snei (fieldX w) (fieldNN w),
       by rw [decode, h]; rfl, rfl, formRegByte_of_opClass h⟩⟩,
     ⟨"SER", fun w h => ⟨.ser (fieldX w) (fieldY w) (fieldN w),
       by rw [decode, h]; rfl, rfl, formRegReg_of_opClass h⟩⟩,
     ⟨"LDI", fun w h => ⟨.ldi (fieldX w) (fieldNN w), by rw [decode, h]; rfl, rfl, formRegByte_of_opClass h⟩⟩,
     ⟨"ADDI", fun w h => ⟨.addi (fieldX w) (fieldNN w),
       by rw [decode, h]; rfl, rfl, formRegByte_of_opClass h⟩⟩,
     ⟨"SNER", fun w h => ⟨.sner (fieldX w) (fieldY w) (fieldN w),
       by rw [decode, h]; rfl, rfl, formRegReg_of_opClass h⟩⟩,
     ⟨"LDX", fun w h => ⟨.ldx (fieldNNN w), by rw [decode, h]; rfl, rfl, formAddr_of_opClass h⟩⟩,
     ⟨"JPX", fun w h => ⟨.jpx (fieldX w) (fieldNNN w), by rw [decode, h]; rfl, rfl, formAddr_of_opClass h⟩⟩,
     ⟨"RND", fun w h => ⟨.rnd (fieldX w) (fieldNN w), by rw [decode, h]; rfl, rfl, formRegByte_of_opClass h⟩⟩,
     ⟨"DRW", fun w h => ⟨.drw (fieldX w) (fieldY w) (fieldN w),
       by rw [decode, h]; rfl, rfl, formRegReg_of_opClass h⟩⟩,
     fun _ h => absurd h List.not_mem_nil⟩

/-! ### No bit of a word that decodes is lost -/

theorem encode_of_decodeFamily0 {w : Word} {i : Instr} (h : decodeFamily0 w = .ok i) : encode i = w := by
  unfold decodeFamily0 at h
  split at h <;> cases h <;> rfl

theorem encode_of_decodeFamily8 {w : Word} {i : Instr} (hc : opClass w = 0x8#4) (h : decodeFamily8 w = .ok i) :
    encode i = w := by
  have hw := formRegReg_of_opClass hc
  unfold decodeFamily8 at h
  split at h <;> cases h
  all_goals rwa [‹fieldN w = _›] at hw

theorem encode_of_decodeFamilyE {w : Word} {i : Instr} (hc : opClass w = 0xE#4) (h : decodeFamilyE w = .ok i) :
    encode i = w := by
  have hw := formRegByte_of_opClass hc
  unfold decodeFamilyE at h
  split at h <;> cases h
  all_goals rwa [‹fieldNN w = _›] at hw

theorem encode_of_decodeFamilyF {w : Word} {i : Instr} (hc : opClass w = 0xF#4) (h : decodeFamilyF w = .ok i) :
    encode i = w := by
  have hw := formRegByte_of_opClass hc
  unfold decodeFamilyF at h
  split at h <;> cases h
  all_goals rwa [‹fieldNN w = _›] at hw

/-- The encoder gives back the word an instruction was decoded from. -/
theorem encode_of_decode {w : Word} {i : Instr} (h : decode w = .ok i) : encode i = w := by
  obtain hc | hc | hc | hc | hc := class_cases (opClass w)
  · exact encode_of_decodeFamily0 ((decode_of_class0 hc).symm.trans h)
  · exact encode_of_decodeFamily8 hc ((decode_of_class8 hc).symm.trans h)
  · exact encode_of_decodeFamilyE hc ((decode_of_classE hc).symm.trans h)
  · exact encode_of_decodeFamilyF hc ((decode_of_classF hc).symm.trans h)
  · obtain ⟨m, hm⟩ := selectsByClass_of_mem _ hc
    obtain ⟨j, hj, -, hw⟩ := hm w rfl
    cases hj.symm.trans h
    exact hw

/-! ### The rows of the opcode map (R94) -/

/-- A row is determined by its mnemonic. -/
theorem row_eq_of_mnemonic_eq {a b : OpcodeRow} (ha : a ∈ opcodeMap) (hb : b ∈ opcodeMap)
    (h : a.mnemonic = b.mnemonic) : a = b :=
  List.inj_on_of_nodup_map (f := OpcodeRow.mnemonic) (l := opcodeMap) (by decide) ha hb h

/-- The mask by which a word of class `c` is matched: families 0x0, 0x8, 0xE and 0xF have a secondary field, the
others none (R94 to R99). -/
def classMask (c : Nibble) : Word :=
  match c with
  | 0x0#4 => 0xFFFF#16
  | 0x8#4 => 0xF00F#16
  | 0xE#4 | 0xF#4 => 0xF0FF#16
  | _ => 0xF000#16

theorem row_mask_eq_classMask : ∀ row ∈ opcodeMap, row.mask = classMask (opClass row.pattern) := by decide

/-- The pattern of a row, taken as a word, selects the row's instruction. -/
theorem map_mnemonic_decode_pattern :
    ∀ row ∈ opcodeMap, (decode row.pattern).map mnemonic = .ok row.mnemonic := by decide

/-- Every mask of the map keeps the class. -/
theorem opClass_and_classMask (w : Word) (c : Nibble) : opClass (w &&& classMask c) = opClass w := by
  unfold classMask
  split
  · exact congrArg opClass BitVec.and_allOnes
  · exact (fields_of_and_F00F rfl).1.symm
  · exact (fields_of_and_F0FF rfl).1.symm
  · exact (fields_of_and_F0FF rfl).1.symm
  · exact (opClass_of_and_F000 rfl).symm

theorem map_mnemonic_decodeFamily8_congr {w p : Word} (h : fieldN w = fieldN p) :
    (decodeFamily8 w).map mnemonic = (decodeFamily8 p).map mnemonic := by
  unfold decodeFamily8
  rw [h]
  split <;> rfl

theorem map_mnemonic_decodeFamilyE_congr {w p : Word} (h : fieldNN w = fieldNN p) :
    (decodeFamilyE w).map mnemonic = (decodeFamilyE p).map mnemonic := by
  unfold decodeFamilyE
  rw [h]
  split <;> rfl

theorem map_mnemonic_decodeFamilyF_congr {w p : Word} (h : fieldNN w = fieldNN p) :
    (decodeFamilyF w).map mnemonic = (decodeFamilyF p).map mnemonic := by
  unfold decodeFamilyF
  rw [h]
  split <;> rfl

/-- The bits of a word outside the mask of its class do not bear on which instruction it selects. -/
theorem map_mnemonic_decode_of_and_classMask {w p : Word} (h : w &&& classMask (opClass p) = p) :
    (decode w).map mnemonic = (decode p).map mnemonic := by
  have hw : opClass w = opClass p := by rw [← opClass_and_classMask w (opClass p), h]
  obtain hc | hc | hc | hc | hc := class_cases (opClass p)
  · rw [hc] at h
    exact congrArg (fun v => (decode v).map mnemonic) (BitVec.and_allOnes.symm.trans h)
  · rw [decode_of_class8 (hw.trans hc), decode_of_class8 hc]
    rw [hc] at h
    exact map_mnemonic_decodeFamily8_congr (fields_of_and_F00F h).2
  · rw [decode_of_classE (hw.trans hc), decode_of_classE hc]
    rw [hc] at h
    exact map_mnemonic_decodeFamilyE_congr (fields_of_and_F0FF h).2
  · rw [decode_of_classF (hw.trans hc), decode_of_classF hc]
    rw [hc] at h
    exact map_mnemonic_decodeFamilyF_congr (fields_of_and_F0FF h).2
  · obtain ⟨m, hm⟩ := selectsByClass_of_mem _ hc
    obtain ⟨i, hi, rfl, -⟩ := hm w hw
    obtain ⟨j, hj, hij, -⟩ := hm p rfl
    rw [hi, hj]
    exact congrArg Except.ok hij.symm

/-- A word that satisfies a row's mask and pattern selects the row's instruction. -/
theorem decode_of_match {w : Word} {row : OpcodeRow} (hrow : row ∈ opcodeMap)
    (h : w &&& row.mask = row.pattern) : ∃ i, decode w = .ok i ∧ mnemonic i = row.mnemonic := by
  rw [row_mask_eq_classMask row hrow] at h
  have hmap := (map_mnemonic_decode_of_and_classMask h).trans (map_mnemonic_decode_pattern row hrow)
  cases hd : decode w with
  | ok i =>
    rw [hd] at hmap
    exact ⟨i, rfl, Except.ok.inj hmap⟩
  | error u =>
    rw [hd] at hmap
    cases hmap

/-- A word that selects a row's instruction satisfies the row's mask and pattern. -/
theorem match_of_decode {w : Word} {i : Instr} {row : OpcodeRow} (hrow : row ∈ opcodeMap)
    (hi : decode w = .ok i) (hm : mnemonic i = row.mnemonic) : w &&& row.mask = row.pattern := by
  obtain ⟨r, hr, hrm, hmatch⟩ := Laws.EncodeRow.holds i
  rwa [row_eq_of_mnemonic_eq hr hrow (hrm.trans hm), encode_of_decode hi] at hmatch

/-- Settles O2: matching a row and decoding to its instruction are the same, and one word decodes to one
instruction. -/
theorem decodeFollowsTheOpcodeMap : Obligations.DecodeFollowsTheOpcodeMap := by
  refine ⟨rfl, fun i => ?_, fun w row hrow => ⟨decode_of_match hrow, ?_⟩, fun w a ha b hb hwa hwb => ?_⟩
  · obtain ⟨row, hrow, hm, -⟩ := Laws.EncodeRow.holds i
    exact ⟨row, hrow, hm⟩
  · rintro ⟨i, hi, hm⟩
    exact match_of_decode hrow hi hm
  · obtain ⟨i, hi, hia⟩ := decode_of_match ha hwa
    obtain ⟨j, hj, hjb⟩ := decode_of_match hb hwb
    cases hi.symm.trans hj
    exact row_eq_of_mnemonic_eq ha hb (hia.symm.trans hjb)

/-! ### The words that select no instruction (R100)

The words each family leaves undefined, by the secondary field as a number. -/

theorem decodeFamily0_error_iff (w : Word) :
    (∃ u, decodeFamily0 w = .error u) ↔ w.toNat ≠ 0x00E0 ∧ w.toNat ≠ 0x00EE := by
  unfold decodeFamily0
  split <;> simp_all [BitVec.toNat_eq]

theorem decodeFamily8_error_iff (w : Word) :
    (∃ u, decodeFamily8 w = .error u) ↔ w.toNat % 16 ∈ [0x8, 0x9, 0xA, 0xB, 0xC, 0xD, 0xF] := by
  rw [← toNat_fieldN]
  unfold decodeFamily8
  split
  case h_10 =>
    have hlt := (fieldN w).isLt
    simp_all [BitVec.toNat_eq]
    omega
  all_goals simp [*]

theorem decodeFamilyE_error_iff (w : Word) :
    (∃ u, decodeFamilyE w = .error u) ↔ w.toNat % 256 ∉ [0x9E, 0xA1] := by
  rw [← toNat_fieldNN]
  unfold decodeFamilyE
  split <;> simp_all [BitVec.toNat_eq]

theorem decodeFamilyF_error_iff (w : Word) : (∃ u, decodeFamilyF w = .error u) ↔
    w.toNat % 256 ∉ [0x07, 0x0A, 0x15, 0x18, 0x1E, 0x29, 0x33, 0x55, 0x65] := by
  rw [← toNat_fieldNN]
  unfold decodeFamilyF
  split <;> simp_all [BitVec.toNat_eq]

end Sys2Proof

namespace Sys2Proof.Machine

/-- The words of R100's list are the ones the decoder refuses. -/
theorem undefinedWord_iff (w : Word) : undefinedWord w ↔ ∃ u, decode w = .error u := by
  have hclass : w.toNat / 4096 = (opClass w).toNat := by rw [toNat_opClass]; omega
  unfold undefinedWord
  rw [hclass]
  obtain hc | hc | hc | hc | hc := class_cases (opClass w)
  · rw [decode_of_class0 hc, decodeFamily0_error_iff, hc]
    simp
  · rw [decode_of_class8 hc, decodeFamily8_error_iff, hc]
    simp
  · rw [decode_of_classE hc, decodeFamilyE_error_iff, hc]
    simp
  · rw [decode_of_classF hc, decodeFamilyF_error_iff, hc]
    simp
  · obtain ⟨m, hm⟩ := selectsByClass_of_mem _ hc
    obtain ⟨i, hi, -⟩ := hm w rfl
    have hne : ∀ c ∈ singleClasses, c.toNat ≠ 0x0 ∧ c.toNat ≠ 0x8 ∧ c.toNat ≠ 0xE ∧ c.toNat ≠ 0xF := by
      decide
    simp [hi, hne _ hc]

/-- Settles O5: the list is `undefinedWord_iff`, and such a word's step is the advance and the tick. -/
theorem undefinedWordIsANoOp : Obligations.UndefinedWordIsANoOp := by
  refine ⟨undefinedWord_iff, fun s w hs hpc hw hu => ?_⟩
  obtain ⟨u, hu⟩ := (undefinedWord_iff w).mp hu
  rw [← hw] at hu
  exact ⟨_, _, step_of_undefined hs (State.fetch_of_le hpc) hu, toNat_countDown _, toNat_countDown _⟩

end Sys2Proof.Machine
end

section
/-! The proofs of the family 40_cycle.md: the ways a whole step goes, the timers and the tone output after a completed
step, a call with its return, and the word `withFetchWord` places. -/

namespace Sys2Proof.Machine

/-! ### The step of a running core (R120, R121, R128) -/

/-- Settles O6: the advanced state is `s.advance`, and the step is the executor's state settled. -/
theorem stepRunsTheDecodedInstruction : Obligations.StepRunsTheDecodedInstruction := by
  intro s i hs hpc hdecode
  have hi : s.Selects i := ⟨hpc, hdecode⟩
  refine ⟨fun t ht hf => ?_, fun t f ht hf => step_of_raises hs hi ht hf⟩
  exact ⟨_, _, step_of_completes hs hi ht hf, toNat_countDown _, toNat_countDown _⟩

theorem executeWord_answers (w : Word) (s : State) : ∃ t, executeWord w s = .next t := by
  unfold executeWord
  split
  · obtain ⟨t, ht, -⟩ := exec_answers _ s
    exact ⟨t, ht⟩
  · exact ⟨s, rfl⟩

/-- Settles O8: a halted core and a failed fetch answer by definition, every fetched word by `executeWord_answers`. -/
theorem everyStepAnswersANextState : Obligations.EveryStepAnswersANextState := by
  intro s
  cases hf : s.fault with
  | some f => exact ⟨s, step_of_halted hf⟩
  | none =>
    by_cases hpc : 0xFFE < s.pc.toNat
    · exact ⟨_, step_of_fetch_outside hf hpc⟩
    · obtain ⟨t, ht⟩ := executeWord_answers _ s.advance
      exact ⟨_, by rw [step_of_fetch hf (State.fetch_of_le (Nat.le_of_not_lt hpc)), ht, finishStep]⟩

/-- Settles O11: a step that ends with the latch set failed its fetch or was rolled back by `State.settle`. -/
theorem faultingStepChangesOnlyTheLatch : Obligations.FaultingStepChangesOnlyTheLatch := by
  intro s t f hs hstep ht
  obtain ⟨g, hg, -⟩ | ⟨-, -, rfl⟩ | ⟨_, _, -, -, -, rfl⟩ | ⟨i, done, -, -, -, rfl⟩ := step_cases hstep
  · cases hs.symm.trans hg
  · cases ht
    rfl
  · cases hs.symm.trans ht
  · rw [State.settle_fault] at ht
    exact State.settle_of_some ht

/-- A completed step was a no-op's or left an effect of the selected instruction, and then ticked. -/
theorem step_completed_cases {s t : State} (hs : s.Running) (hstep : step s = .next t) (ht : t.Running) :
    t = s.advance.tick ∨ ∃ i done, s.Selects i ∧ Effect s.advance i done ∧ t = done.tick := by
  obtain ⟨f, hf, -⟩ | ⟨-, -, rfl⟩ | ⟨_, _, -, -, -, rfl⟩ | ⟨i, done, -, hi, hexec, rfl⟩ := step_cases hstep
  · cases hs.symm.trans hf
  · cases ht
  · exact .inl rfl
  · have hdone : done.fault = none := (State.settle_fault s done).symm.trans ht
    exact .inr ⟨i, done, hi, exec_effect hexec, State.settle_of_none hdone⟩

/-! ### The timers after a completed step (R126, R130, R204) -/

theorem Effect.dt_eq_or {s t : State} {i : Instr} (h : Effect s i t) : t.dt = s.dt ∨ ∃ x, i = .sdt x := by
  cases h with
  | setsDelay x => exact .inr ⟨x, rfl⟩
  | skips => exact .inl (State.skipIf_dt ..)
  | _ => exact .inl rfl

theorem Effect.st_eq_or {s t : State} {i : Instr} (h : Effect s i t) : t.st = s.st ∨ ∃ x, i = .sst x := by
  cases h with
  | setsSound x => exact .inr ⟨x, rfl⟩
  | skips => exact .inl (State.skipIf_st ..)
  | _ => exact .inl rfl

/-- FX07 always completes, and reads the DT its own tick has not counted down yet (R130 (a), R200). -/
theorem step_of_selects_gdt {s : State} {x : Reg} (hs : s.Running) (hi : s.Selects (.gdt x)) :
    step s = .next (s.advance.setReg x s.dt).tick :=
  step_of_completes hs hi rfl hs

/-- FX15 always completes, and the tick counts down the DT it set (R201, R204). -/
theorem step_of_selects_sdt {s : State} {x : Reg} (hs : s.Running) (hi : s.Selects (.sdt x)) :
    step s = .next { s.advance with dt := s.reg x }.tick :=
  step_of_completes hs hi rfl hs

/-- FX18 always completes, and the tick counts down the ST it set (R202, R204). -/
theorem step_of_selects_sst {s : State} {x : Reg} (hs : s.Running) (hi : s.Selects (.sst x)) :
    step s = .next { s.advance with st := s.reg x }.tick :=
  step_of_completes hs hi rfl hs

theorem dt_of_completed_step {s t : State} (hs : s.Running) (hstep : step s = .next t) (ht : t.Running)
    (hnot : ∀ x, ¬s.Selects (.sdt x)) : t.dt = countDown s.dt := by
  obtain rfl | ⟨i, done, hi, heffect, rfl⟩ := step_completed_cases hs hstep ht
  · rfl
  · have hdt : done.dt = s.dt := heffect.dt_eq_or.resolve_right fun ⟨x, hx⟩ => hnot x (hx ▸ hi)
    rw [State.tick_dt, hdt]

theorem st_of_completed_step {s t : State} (hs : s.Running) (hstep : step s = .next t) (ht : t.Running)
    (hnot : ∀ x, ¬s.Selects (.sst x)) : t.st = countDown s.st := by
  obtain rfl | ⟨i, done, hi, heffect, rfl⟩ := step_completed_cases hs hstep ht
  · rfl
  · have hst : done.st = s.st := heffect.st_eq_or.resolve_right fun ⟨x, hx⟩ => hnot x (hx ▸ hi)
    rw [State.tick_st, hst]

/-- Settles O13: FX15 and FX18 are run, and any other completed step leaves the timer to the tick. -/
theorem tickFollowsTheInstruction : Obligations.TickFollowsTheInstruction := by
  intro s t hs hstep ht
  refine ⟨fun x hi => ?_, fun hnot => ?_, fun x hi => ?_, fun hnot => ?_⟩
  · cases (step_of_selects_sdt hs hi).symm.trans hstep
    exact toNat_countDown _
  · rw [dt_of_completed_step hs hstep ht hnot, toNat_countDown]
  · cases (step_of_selects_sst hs hi).symm.trans hstep
    exact toNat_countDown _
  · rw [st_of_completed_step hs hstep ht hnot, toNat_countDown]

/-- Settles O54: FX07's step, whose advance does not wrap because its fetch succeeded. -/
theorem delayTimerIsReadBeforeTheTick : Obligations.DelayTimerIsReadBeforeTheTick := by
  intro x s t hs hi hstep
  cases (step_of_selects_gdt hs hi).symm.trans hstep
  obtain ⟨hpc, -⟩ := hi
  refine ⟨?_, toNat_countDown _, State.toNat_advance_pc hpc⟩
  rw [State.reg_tick, State.reg_setReg, if_pos rfl]

/-! ### The tone output (R127, R130 (c)) -/

theorem State.toneActive_iff (s : State) : s.toneActive = true ↔ s.fault = none ∧ s.st.toNat ≠ 0 := by
  rw [State.toneActive, Bool.and_eq_true, Option.isNone_iff_eq_none, decide_eq_true_iff, Ne, byte_eq_zero_iff]

/-- Settles O14: after FX18 the ticked ST is VX - 1, so it is nonzero exactly when VX is at least 2. -/
theorem toneFollowsTheSoundTimer : Obligations.ToneFollowsTheSoundTimer := by
  intro s t hs hstep
  refine ⟨t.toneActive_iff, fun x hi => ?_⟩
  have ht : t.fault = none := by
    cases (step_of_selects_sst hs hi).symm.trans hstep
    exact hs
  obtain ⟨-, -, hst, -⟩ := tickFollowsTheInstruction s t hs hstep ht
  rw [State.toneActive_iff, and_iff_right ht, hst x hi]
  omega

/-- Settles O9: a halted core is returned as it is, and its latch silences the tone. -/
theorem haltedCoreChangesNothing : Obligations.HaltedCoreChangesNothing := by
  intro s f hf
  exact ⟨step_of_halted hf, by rw [State.toneActive, hf]; rfl⟩

/-! ### A call and its return (R123 (a), R140, R142) -/

/-- A completed call pushed the advanced pc; on a full stack it would have faulted (R142, R236). -/
theorem step_call_completes {nnn : Addr} {s t : State} (hs : s.Running) (hi : s.Selects (.call nnn))
    (hstep : step s = .next t) (ht : t.Running) :
    t = ((s.advance.push s.advance.pc).jump (zextAddr nnn)).tick := by
  by_cases hfull : s.advance.stackFull = true
  · have hexec : exec (.call nnn) s.advance = .next (s.advance.raise .stackOverflow) := if_pos hfull
    cases (step_of_raises hs hi hexec rfl).symm.trans hstep
    cases ht
  · have hexec : exec (.call nnn) s.advance = .next ((s.advance.push s.advance.pc).jump (zextAddr nnn)) :=
      if_neg hfull
    cases (step_of_completes hs hi hexec hs).symm.trans hstep
    rfl

/-- A return on a non-empty stack goes to the last pushed address (R140). -/
theorem step_ret_of_stack {s : State} {rest : List Word} {a : Word} (hs : s.Running) (hi : s.Selects .ret)
    (hstack : s.stack = rest ++ [a]) : step s = .next (s.advance.dropTop.jump a).tick := by
  have hexec : exec .ret s.advance = .next (s.advance.dropTop.jump a) := by
    rw [exec, execRet, (State.top_append (s := s.advance) hstack).1]
  exact step_of_completes hs hi hexec hs

/-- Settles O25: the return pops the entry the call appended, the pc after the call. -/
theorem returnComesBackAfterTheCall : Obligations.ReturnComesBackAfterTheCall := by
  intro nnn s t u hs hcall hstep ht hu hret hstack
  have hpushed : u.stack = s.stack ++ [s.advance.pc] := by
    rw [hstack, step_call_completes hs hcall hstep ht]
    rfl
  obtain ⟨hpc, -⟩ := hcall
  obtain ⟨-, hrest⟩ := State.top_append hpushed
  exact ⟨_, step_ret_of_stack hu hret hpushed, hu, hrest, State.toNat_advance_pc hpc⟩

/-! ### The word `withFetchWord` places (log 11) -/

/-- The memory after a word is stored at `a`, high byte first (R63). -/
theorem Memory.read_writeBytes_word (m : Memory) (a : Nat) (w : Word) :
    (m.writeBytes a [highByte w, lowByte w]).read a = highByte w ∧
    (m.writeBytes a [highByte w, lowByte w]).read (a + 1) = lowByte w := by
  constructor
  · rw [Memory.read_writeBytes, if_pos (by simp), Nat.sub_self, List.getD_cons_zero]
  · rw [Memory.read_writeBytes, if_pos (by simp), Nat.add_sub_cancel_left, List.getD_cons_succ,
      List.getD_cons_zero]

theorem State.withFetchWord_pc_le (s : State) (nbits w : Nat) :
    (s.withFetchWord nbits w).pc.toNat ≤ 0xFFE := by
  simp only [State.withFetchWord]
  split
  · assumption
  · decide

/-- The next step after `withFetchWord` fetches the word. -/
theorem State.fetch_withFetchWord (s : State) (nbits w : Nat) :
    (s.withFetchWord nbits w).fetch = some (BitVec.ofNat 16 (w % 2 ^ nbits)) := by
  obtain ⟨hhigh, hlow⟩ := Memory.read_writeBytes_word s.mem (s.withFetchWord nbits w).pc.toNat
    (BitVec.ofNat 16 (w % 2 ^ nbits))
  rw [State.fetch_of_le (s.withFetchWord_pc_le nbits w)]
  exact congrArg some ((congrArg₂ wordOfBytes hhigh hlow).trans (wordOfBytes_highByte_lowByte _))

/-- In a running state that can fetch, `withFetchWord` stores the two bytes at pc and changes nothing else. -/
theorem State.withFetchWord_eq {s : State} (hs : s.Running) (hpc : s.pc.toNat ≤ 0xFFE) (nbits w : Nat) :
    s.withFetchWord nbits w = { s with
      mem := s.mem.writeBytes s.pc.toNat
        [highByte (BitVec.ofNat 16 (w % 2 ^ nbits)), lowByte (BitVec.ofNat 16 (w % 2 ^ nbits))] } := by
  have hfault : s.fault = none := hs
  simp only [State.withFetchWord, if_pos hpc, ← hfault]

/-- Settles O7: the two bytes as numbers, and every address but theirs read as before. -/
theorem withFetchWordPlacesTheNextWord : Obligations.WithFetchWordPlacesTheNextWord := by
  intro s w hw
  have hmod : w % 2 ^ 16 = w := Nat.mod_eq_of_lt hw
  have hnat : (BitVec.ofNat 16 w).toNat = w := hmod
  refine ⟨rfl, by rw [State.fetch_withFetchWord, hmod], fun hs hpc => ?_⟩
  obtain ⟨hhigh, hlow⟩ := Memory.read_writeBytes_word s.mem s.pc.toNat (BitVec.ofNat 16 w)
  refine ⟨_, State.withFetchWord_eq hs hpc 16 w, ?_, ?_, fun a ha ha' => ?_⟩
  · rw [hmod, hhigh, toNat_highByte, hnat]
    omega
  · rw [hmod, hlow, toNat_lowByte, hnat]
  · refine Memory.read_writeBytes_of_outside ?_
    rw [List.length_cons, List.length_singleton]
    omega

end Sys2Proof.Machine
end

section
/-! The proofs of the family 41_flow.md: the words of classes 1 and B, and what 1NNN, BXNN, 2NNN and 00EE leave on
every state. -/

namespace Sys2Proof

/-! ### The words of the two jumps (R94) -/

theorem decode_of_class1 {w : Word} (h : opClass w = 0x1#4) : decode w = .ok (.jp (fieldNNN w)) := by
  rw [decode, h]; rfl

theorem decode_of_classB {w : Word} (h : opClass w = 0xB#4) : decode w = .ok (.jpx (fieldX w) (fieldNNN w)) := by
  rw [decode, h]; rfl

end Sys2Proof

namespace Sys2Proof.Machine

/-! ### The jumps (R141, R143) -/

/-- BXNN's sum is at most 0xFFF + 0xFF, so 16 bits hold it unreduced (D22). -/
theorem toNat_zextAddr_add_zextByte (nnn : Addr) (b : Byte) :
    (zextAddr nnn + zextByte b).toNat = nnn.toNat + b.toNat := by
  have := nnn.isLt
  have := b.isLt
  rw [BitVec.toNat_add, toNat_zextAddr, toNat_zextByte]
  exact Nat.mod_eq_of_lt (by omega)

/-- Settles O21: the mask fixes class 1, and zero extension keeps NNN's value. -/
theorem jumpSetsThePc : Obligations.JumpSetsThePc :=
  ⟨fun _ hw => decode_of_class1 (opClass_of_and_F000 hw), fun nnn _ => ⟨zextAddr nnn, rfl, toNat_zextAddr nnn⟩⟩

/-- Settles O22: the mask fixes class B, and the sum of the two zero-extended operands does not wrap. -/
theorem offsetJumpAddsVx : Obligations.OffsetJumpAddsVx := by
  refine ⟨fun w hw => ?_, fun x nnn s => ?_⟩
  · exact ⟨fieldX w, fieldNNN w, decode_of_classB (opClass_of_and_F000 hw), toNat_fieldNNN w, val_fieldX w⟩
  · exact ⟨zextAddr nnn + zextByte (s.reg x), rfl, toNat_zextAddr_add_zextByte nnn (s.reg x)⟩

/-! ### Call and return (R140, R142, R235, R236) -/

theorem exec_call_of_room {s : State} (nnn : Addr) (h : s.stack.length < s.params.stackDepth) :
    exec (.call nnn) s = .next ((s.push s.pc).jump (zextAddr nnn)) :=
  if_neg fun hfull => Nat.not_le_of_lt h ((State.stackFull_iff s).mp hfull)

theorem exec_call_of_full {s : State} (nnn : Addr) (h : s.params.stackDepth ≤ s.stack.length) :
    exec (.call nnn) s = .next (s.raise .stackOverflow) :=
  if_pos ((State.stackFull_iff s).mpr h)

theorem exec_ret_of_top {s : State} {a : Word} (h : s.top = some a) :
    exec .ret s = .next (s.dropTop.jump a) := by
  rw [exec, execRet, h]

theorem exec_ret_of_empty {s : State} (h : s.stack = []) : exec .ret s = .next (s.raise .stackUnderflow) := by
  rw [exec, execRet, (State.top_eq_none_iff s).mpr h]

/-- Settles O23: `State.push` appends the pc the CALL finds, and a stack at its depth is full. -/
theorem callPushesTheAdvancedPc : Obligations.CallPushesTheAdvancedPc := by
  refine fun nnn s => ⟨fun hroom => ?_, fun hfull => ?_⟩
  · exact ⟨zextAddr nnn, exec_call_of_room nnn hroom, toNat_zextAddr nnn⟩
  · exact exec_call_of_full nnn hfull.ge

/-- Settles O24: on `rest ++ [a]` the entry popped is `a` and the stack left is `rest`. -/
theorem returnPopsTheLastPushed : Obligations.ReturnPopsTheLastPushed := by
  refine fun s => ⟨fun rest a hstack => ?_, exec_ret_of_empty⟩
  obtain ⟨htop, hrest⟩ := State.top_append hstack
  rw [exec_ret_of_top htop, ← hrest]
  rfl

end Sys2Proof.Machine
end

section
/-! The proofs of the family 42_skips.md: the words of classes 3, 4, 5 and 9, and the condition of each of the six
skips, first in the executor and then over a whole step. -/

namespace Sys2Proof

/-! ### The words of the immediate and register skips (R94) -/

theorem decode_of_class3 {w : Word} (h : opClass w = 0x3#4) : decode w = .ok (.sei (fieldX w) (fieldNN w)) := by
  rw [decode, h]; rfl

theorem decode_of_class4 {w : Word} (h : opClass w = 0x4#4) : decode w = .ok (.snei (fieldX w) (fieldNN w)) := by
  rw [decode, h]; rfl

theorem decode_of_class5 {w : Word} (h : opClass w = 0x5#4) :
    decode w = .ok (.ser (fieldX w) (fieldY w) (fieldN w)) := by
  rw [decode, h]; rfl

theorem decode_of_class9 {w : Word} (h : opClass w = 0x9#4) :
    decode w = .ok (.sner (fieldX w) (fieldY w) (fieldN w)) := by
  rw [decode, h]; rfl

end Sys2Proof

namespace Sys2Proof.Machine

/-! ### A conditional skip whose condition says a proposition, or its negation (R150) -/

section
variable {c : Bool} {p : Prop} [Decidable p]

theorem State.skipIf_of_iff (s : State) (h : c = true ↔ p) :
    s.skipIf c = { s with pc := if p then s.pc + 2 else s.pc } := by
  simp only [State.skipIf_eq, h]

theorem State.skipIf_of_iff_not (s : State) (h : c = true ↔ ¬p) :
    s.skipIf c = { s with pc := if p then s.pc else s.pc + 2 } := by
  simp only [State.skipIf_eq, h, ite_not]

end

/-! ### The executor on each skip (R151 to R156) -/

/-- Settles O26: the masks fix classes 3 and 4, and each condition is the comparison with NN or its negation. -/
theorem immediateSkips : Obligations.ImmediateSkips := by
  refine ⟨fun w hw => decode_of_class3 (opClass_of_and_F000 hw),
    fun w hw => decode_of_class4 (opClass_of_and_F000 hw), fun x nn s => ⟨?_, ?_⟩⟩
  · exact congrArg _ (s.skipIf_of_iff decide_eq_true_iff)
  · exact congrArg _ (s.skipIf_of_iff_not decide_eq_true_iff)

/-- Settles O27: the masks fix classes 5 and 9, and each condition is the comparison of the registers or its
negation. -/
theorem registerSkips : Obligations.RegisterSkips := by
  refine ⟨fun w hw => decode_of_class5 (opClass_of_and_F000 hw),
    fun w hw => decode_of_class9 (opClass_of_and_F000 hw), fun x y n s => ⟨?_, ?_⟩⟩
  · exact congrArg _ (s.skipIf_of_iff decide_eq_true_iff)
  · exact congrArg _ (s.skipIf_of_iff_not decide_eq_true_iff)

section
variable {s : State} {x k : Reg}

theorem exec_skp_of_key (h : (s.reg x).toNat = k.val) : exec (.skp x) s = .next (s.skipIf (s.pressed k)) := by
  rw [exec, execSkp, (keyIndex_eq_some_iff _ k).mpr h]

theorem exec_sknp_of_key (h : (s.reg x).toNat = k.val) : exec (.sknp x) s = .next (s.skipIf (!s.pressed k)) := by
  rw [exec, execSknp, (keyIndex_eq_some_iff _ k).mpr h]

theorem exec_skp_of_no_key (h : 15 < (s.reg x).toNat) :
    exec (.skp x) s = .next (s.raise .keyIndexOutOfRange) := by
  rw [exec, execSkp, (keyIndex_eq_none_iff _).mpr h]

theorem exec_sknp_of_no_key (h : 15 < (s.reg x).toNat) :
    exec (.sknp x) s = .next (s.raise .keyIndexOutOfRange) := by
  rw [exec, execSknp, (keyIndex_eq_none_iff _).mpr h]

end

/-- Settles O28: an index up to 15 names its key, whose flag or negated flag is the condition; one above names none. -/
theorem keySkips : Obligations.KeySkips := by
  refine fun x s => ⟨fun k hk => ⟨?_, ?_⟩, fun h => ⟨exec_skp_of_no_key h, exec_sknp_of_no_key h⟩⟩
  · rw [exec_skp_of_key hk]
    exact congrArg _ (s.skipIf_of_iff Iff.rfl)
  · rw [exec_sknp_of_key hk]
    exact congrArg _ (s.skipIf_of_iff_not Bool.not_iff_not)

/-! ### The whole step of a skip (R150) -/

/-- Where `skipTaken` has an answer, the executor skips by it and completes. -/
theorem exec_of_skipTaken {s : State} {i : Instr} {taken : Bool} (h : s.skipTaken i = some taken) :
    exec i s = .next (s.skipIf taken) := by
  cases i with
  | sei | snei | ser | sner => cases h; rfl
  | skp x =>
    obtain ⟨hx, ⟨⟩⟩ := Option.dite_none_right_eq_some.mp h
    exact exec_skp_of_key (k := ⟨_, hx⟩) rfl
  | sknp x =>
    obtain ⟨hx, ⟨⟩⟩ := Option.dite_none_right_eq_some.mp h
    exact exec_sknp_of_key (k := ⟨_, hx⟩) rfl
  | _ => cases h

/-- No condition of a skip reads pc. -/
theorem State.skipTaken_advance (s : State) (i : Instr) : s.advance.skipTaken i = s.skipTaken i := by
  cases i <;> rfl

theorem step_of_skipTaken {s : State} {i : Instr} {taken : Bool} (hs : s.Running) (hi : s.Selects i)
    (h : s.skipTaken i = some taken) : step s = .next (s.advance.skipIf taken).tick :=
  step_of_completes hs hi (exec_of_skipTaken ((s.skipTaken_advance i).trans h))
    ((State.skipIf_fault ..).trans hs)

/-- After a successful fetch neither the advance nor the skip wraps. -/
theorem State.toNat_skipIf_advance_pc {s : State} (hpc : s.pc.toNat ≤ 0xFFE) (taken : Bool) :
    (s.advance.skipIf taken).pc.toNat = s.pc.toNat + (if taken then 4 else 2) := by
  have hadvance := State.toNat_advance_pc hpc
  rw [State.skipIf_pc]
  cases taken with
  | false => exact hadvance
  | true =>
    simp only [if_true]
    bv_omega

/-- Settles O29: the step of a skip is the advance, the skip if it is taken, and the tick. -/
theorem skipPassesOverOneWord : Obligations.SkipPassesOverOneWord := by
  intro s i taken hs hi htaken
  refine ⟨(s.advance.skipIf taken).pc, countDown s.dt, countDown s.st, ?_,
    State.toNat_skipIf_advance_pc hi.1 taken, toNat_countDown _, toNat_countDown _⟩
  rw [step_of_skipTaken hs hi htaken, State.skipIf_eq]
  rfl

end Sys2Proof.Machine
end

section
/-! The proofs of the family 43_alu.md: the words of classes 6 and 7, the register write of the loads
and the bitwise operations, and the two writes of the instructions that set the flag (R172). -/

namespace Sys2Proof

/-! ### The words of the two loads of an immediate (R94) -/

theorem decode_of_class6 {w : Word} (h : opClass w = 0x6#4) : decode w = .ok (.ldi (fieldX w) (fieldNN w)) := by
  rw [decode, h]; rfl

theorem decode_of_class7 {w : Word} (h : opClass w = 0x7#4) : decode w = .ok (.addi (fieldX w) (fieldNN w)) := by
  rw [decode, h]; rfl

end Sys2Proof

namespace Sys2Proof.Machine

/-! ### The register file after one write -/

theorem Registers.get_set_same (v : Registers) (x : Reg) (b : Byte) : (v.set x b)[x] = b :=
  (Registers.get_set v x x b).trans (if_pos rfl)

theorem Registers.get_set_of_ne (v : Registers) {x r : Reg} (b : Byte) (h : r ≠ x) : (v.set x b)[r] = v[r] :=
  (Registers.get_set v x r b).trans (if_neg h)

/-! ### Loads, copy and bitwise operations (R160 to R165) -/

/-- Settles O30: the masks fix classes 6 and 7, and each instruction writes the one register X. -/
theorem loadAndAddImmediate : Obligations.LoadAndAddImmediate := by
  refine ⟨fun w hw => decode_of_class6 (opClass_of_and_F000 hw),
    fun w hw => decode_of_class7 (opClass_of_and_F000 hw), fun x nn s => ⟨?_, ?_⟩⟩
  · exact ⟨s.v.set x nn, rfl, fun r => Registers.get_set s.v x r nn⟩
  · refine ⟨s.v.set x (s.v[x] + nn), rfl, ?_, fun r hr => Registers.get_set_of_ne s.v _ hr⟩
    rw [Registers.get_set_same, BitVec.toNat_add]

/-- An instruction whose one effect is to write `b` to register X, said bit by bit. -/
theorem exists_set_of_bits (s : State) (x : Reg) {b : Byte} {bit : Nat → Bool} (hb : ∀ k, b.getLsbD k = bit k) :
    ∃ v : Registers, (.next (s.setReg x b) : Host.Outcome State Fault Refusal) = .next { s with v := v } ∧
      (∀ r : Reg, r ≠ x → v[r] = s.v[r]) ∧ ∀ k, v[x].getLsbD k = bit k :=
  ⟨s.v.set x b, rfl, fun _ hr => Registers.get_set_of_ne s.v b hr, fun k => by
    rw [Registers.get_set_same, hb]⟩

/-- Settles O31: the masks fix class 8 and N, and a bitwise operation acts on each bit. -/
theorem copyAndLogic : Obligations.CopyAndLogic := by
  refine ⟨fun w => ?_, fun x y s => ⟨?_, ?_, ?_, ?_⟩⟩
  · refine ⟨fun h => ?_, fun h => ?_, fun h => ?_, fun h => ?_⟩
    all_goals
      obtain ⟨hc, hn⟩ := fields_of_and_F00F h
      rw [decode_of_class8 hc, decodeFamily8, hn]
      rfl
  · exact ⟨s.v.set x s.v[y], rfl, fun r => Registers.get_set s.v x r s.v[y]⟩
  · exact exists_set_of_bits s x fun _ => BitVec.getLsbD_or
  · exact exists_set_of_bits s x fun _ => BitVec.getLsbD_and
  · exact exists_set_of_bits s x fun _ => BitVec.getLsbD_xor

/-! ### The instructions that set the flag (R166 to R170, R172) -/

/-- Settles O32: the carry is written last, so VF holds it whatever X is. -/
theorem addWritesSumAndCarry : Obligations.AddWritesSumAndCarry := by
  intro x y s
  refine ⟨(s.v.set x (s.v[x] + s.v[y])).set vf (flagByte (carry s.v[x] s.v[y])), rfl, ?_, fun hx => ?_,
    fun r hrx hrf => ?_⟩
  · rw [Registers.get_set_same, toNat_flagByte, carry]
    simp only [decide_eq_true_eq]
  · rw [Registers.get_set_of_ne _ _ hx, Registers.get_set_same, BitVec.toNat_add]
  · rw [Registers.get_set_of_ne _ _ hrf, Registers.get_set_of_ne _ _ hrx]

/-- What the flag and then the result leave: the result stays in VX whatever X is, the flag in VF unless X = F. -/
theorem exists_set_of_writeFlagThenResult (s : State) (x : Reg) {b : Byte} {f : Bool} {result flag : Nat}
    (hb : b.toNat = result) (hf : (flagByte f).toNat = flag) :
    ∃ v : Registers,
      (.next (s.writeFlagThenResult x b f) : Host.Outcome State Fault Refusal) = .next { s with v := v } ∧
      v[x].toNat = result ∧ (x ≠ vf → v[vf].toNat = flag) ∧ ∀ r : Reg, r ≠ x → r ≠ vf → v[r] = s.v[r] := by
  refine ⟨(s.v.set vf (flagByte f)).set x b, rfl, ?_, fun hx => ?_, fun r hrx hrf => ?_⟩
  · rw [Registers.get_set_same, hb]
  · rw [Registers.get_set_of_ne _ _ hx.symm, Registers.get_set_same, hf]
  · rw [Registers.get_set_of_ne _ _ hrx, Registers.get_set_of_ne _ _ hrf]

theorem toNat_byte_sub (a b : Byte) : (a - b).toNat = (a.toNat + 256 - b.toNat) % 256 := by
  have := b.isLt
  rw [BitVec.toNat_sub]
  omega

theorem toNat_flagByte_greater (a b : Byte) : (flagByte (greater a b)).toNat = if b.toNat < a.toNat then 1 else 0 := by
  rw [toNat_flagByte, greater]
  simp only [decide_eq_true_eq]

/-- Settles O33: the difference is written last, and the flag is the strict comparison of the same operands. -/
theorem subtractWritesDifferenceAndFlag : Obligations.SubtractWritesDifferenceAndFlag := fun x _ s =>
  ⟨exists_set_of_writeFlagThenResult s x (toNat_byte_sub ..) (toNat_flagByte_greater ..),
    exists_set_of_writeFlagThenResult s x (toNat_byte_sub ..) (toNat_flagByte_greater ..)⟩

/-- A bit of a byte as a flag, by division. -/
theorem toNat_flagByte_getLsbD (a : Byte) (k : Nat) : (flagByte (a.getLsbD k)).toNat = a.toNat / 2 ^ k % 2 := by
  rw [← Nat.toNat_testBit, toNat_flagByte, BitVec.getLsbD]
  cases a.toNat.testBit k <;> rfl

theorem toNat_flagByte_lowBit (a : Byte) : (flagByte (lowBit a)).toNat = a.toNat % 2 := by
  rw [lowBit, toNat_flagByte_getLsbD, pow_zero, Nat.div_one]

/-- Bit 7 is the whole quotient by 128, since a byte is below 256. -/
theorem toNat_flagByte_highBit (a : Byte) : (flagByte (highBit a)).toNat = a.toNat / 128 := by
  have := a.isLt
  rw [highBit, toNat_flagByte_getLsbD]
  omega

theorem toNat_byte_shiftRight_one (a : Byte) : (a >>> 1).toNat = a.toNat / 2 := by
  rw [BitVec.toNat_ushiftRight, Nat.shiftRight_one]

theorem toNat_byte_shiftLeft_one (a : Byte) : (a <<< 1).toNat = a.toNat * 2 % 256 := by
  rw [BitVec.toNat_shiftLeft, Nat.shiftLeft_eq, pow_one]

/-- Settles O34: the shifted value is written last, and the flag is the bit of the old value that falls out. -/
theorem shiftsWriteResultAndBitOut : Obligations.ShiftsWriteResultAndBitOut := fun x _ s =>
  ⟨exists_set_of_writeFlagThenResult s x (toNat_byte_shiftRight_one _) (toNat_flagByte_lowBit _),
    exists_set_of_writeFlagThenResult s x (toNat_byte_shiftLeft_one _) (toNat_flagByte_highBit _)⟩

/-! ### The random byte (R171) -/

/-- Settles O35: the write of the masked byte leaves the counter to `State.consumeRnd`, and AND with NN clears every
bit outside NN. -/
theorem randomIsMaskedByNn : Obligations.RandomIsMaskedByNn := by
  intro x nn s
  refine ⟨s.v.set x (Config.rnd s.draws &&& nn), rfl, fun r => Registers.get_set s.v x r _, fun k hk => ?_, ?_⟩
  · rw [Registers.get_set_same, BitVec.getLsbD_and, hk, Bool.and_false]
  · rw [Registers.get_set_same, BitVec.toNat_and]
    exact Nat.and_le_right

end Sys2Proof.Machine
end

section
/-! The proofs of the family 44_index_memory.md: the words of ANNN and FX29, what FX33, FX55 and FX65 leave when
their addresses lie in memory, and the fault of every access that would leave it. -/

namespace Sys2Proof

/-! ### The words of the two loads of I (R94) -/

theorem decode_of_classA {w : Word} (h : opClass w = 0xA#4) : decode w = .ok (.ldx (fieldNNN w)) := by
  rw [decode, h]; rfl

theorem decode_of_classF_29 {w : Word} (hc : opClass w = 0xF#4) (hnn : fieldNN w = 0x29#8) :
    decode w = .ok (.font (fieldX w)) := by
  rw [decode_of_classF hc, decodeFamilyF, hnn]; rfl

end Sys2Proof

namespace Sys2Proof.Machine

/-! ### The index register (R180 to R182) -/

/-- Settles O36: the masks fix class A, and class F with NN; zero extension keeps NNN's value, and the glyph address
does not wrap. -/
theorem loadIndexAndGlyphAddress : Obligations.LoadIndexAndGlyphAddress := by
  refine ⟨fun w hw => decode_of_classA (opClass_of_and_F000 hw), fun w hw => ?_, fun nnn s => ?_, fun x s => ?_⟩
  · obtain ⟨hc, hnn⟩ := fields_of_and_F0FF hw
    exact decode_of_classF_29 hc hnn
  · exact ⟨zextAddr nnn, rfl, toNat_zextAddr nnn⟩
  · exact ⟨glyphAddr (s.reg x), rfl, toNat_glyphAddr (s.reg x)⟩

/-- Settles O37: the 16-bit sum of I and the zero-extended byte, which changes I alone. -/
theorem addToIndexSetsNoFlag : Obligations.AddToIndexSetsNoFlag := by
  refine fun x s => ⟨s.i + zextByte (s.reg x), rfl, ?_⟩
  rw [BitVec.toNat_add, toNat_zextByte]

/-! ### The two branches of a memory instruction (R183 to R186, R237) -/

theorem State.not_inMemory {s : State} {last : Nat} (h : 0xFFF < s.i.toNat + last) : ¬s.inMemory last = true :=
  fun hin => Nat.not_le_of_lt h ((s.inMemory_iff last).mp hin)

section
variable {s : State} {x : Reg}

theorem exec_bcd_of_inMemory (h : s.i.toNat + 2 ≤ 0xFFF) :
    exec (.bcd x) s = .next (s.storeAtI (decimalDigits (s.reg x))) :=
  if_pos ((s.inMemory_iff 2).mpr h)

theorem exec_bcd_of_outside (h : 0xFFF < s.i.toNat + 2) : exec (.bcd x) s = .next (s.raise .memOutOfRange) :=
  if_neg (State.not_inMemory h)

theorem exec_stm_of_inMemory (h : s.i.toNat + x.val ≤ 0xFFF) :
    exec (.stm x) s = .next (s.storeAtI (s.regsTo x)) :=
  if_pos ((s.inMemory_iff x.val).mpr h)

theorem exec_stm_of_outside (h : 0xFFF < s.i.toNat + x.val) : exec (.stm x) s = .next (s.raise .memOutOfRange) :=
  if_neg (State.not_inMemory h)

theorem exec_ldm_of_inMemory (h : s.i.toNat + x.val ≤ 0xFFF) :
    exec (.ldm x) s = .next { s with v := loadRegs s.v 0 (s.bytesAtI (x.val + 1)) } :=
  if_pos ((s.inMemory_iff x.val).mpr h)

theorem exec_ldm_of_outside (h : 0xFFF < s.i.toNat + x.val) : exec (.ldm x) s = .next (s.raise .memOutOfRange) :=
  if_neg (State.not_inMemory h)

/-- A draw of at least one row checks the last row it reads, a row past the clip included (D23). -/
theorem exec_drw_of_outside {y : Reg} {n : Nibble} (hn : 0 < n.toNat)
    (h : 0xFFF < s.i.toNat + min (n.toNat - 1) (32 - (s.reg y).toNat % 32)) :
    exec (.drw x y n) s = .next (s.raise .memOutOfRange) := by
  refine if_neg fun hin => ?_
  obtain h0 | hle := (s.spriteInMemory_iff y n.toNat).mp hin
  · exact hn.ne' h0
  · exact Nat.not_le_of_lt h hle

end

/-- Settles O41: each instruction's range check fails, and the branch it takes sets the latch alone. -/
theorem outOfRangeAccessRaises : Obligations.OutOfRangeAccessRaises :=
  ⟨fun _ _ h => exec_bcd_of_outside h, fun _ _ h => ⟨exec_stm_of_outside h, exec_ldm_of_outside h⟩,
    fun _ _ _ _ hn h => exec_drw_of_outside hn h⟩

/-! ### Stores and loads inside memory (R183 to R185) -/

theorem State.read_storeAtI_of_outside {s : State} {bs : List Byte} {a : Nat}
    (h : a < s.i.toNat ∨ s.i.toNat + bs.length ≤ a) : (s.storeAtI bs).mem.read a = s.mem.read a :=
  Memory.read_writeBytes_of_outside h

/-- FX65's loop leaves the byte at `I + r` in every register up to VX. -/
theorem loadRegs_bytesAtI_get (s : State) (x r : Reg) :
    (loadRegs s.v 0 (s.bytesAtI (x.val + 1)))[r] = if r ≤ x then s.mem.read (s.i.toNat + r.val) else s.v[r] := by
  rw [loadRegs_get, State.length_bytesAtI, Nat.sub_zero]
  by_cases hr : r ≤ x
  · have hlt : r.val < x.val + 1 := Nat.lt_succ_of_le hr
    rw [if_pos hr, if_pos ⟨Nat.zero_le _, by omega⟩, State.getD_bytesAtI s hlt, State.ea_eq]
  · have hle : ¬r.val ≤ x.val := hr
    rw [if_neg hr, if_neg (by omega)]

/-- Settles O38: the three stored bytes are the digits, and they cover I to I + 2 and no other address. -/
theorem bcdStoresTheDecimalDigits : Obligations.BcdStoresTheDecimalDigits := by
  intro x s hin
  obtain ⟨hhundreds, htens, hones⟩ := toNat_decimalDigits (s.reg x)
  have hread {k : Nat} (hk : k < 3) := State.read_storeAtI (s := s) (bs := decimalDigits (s.reg x)) hk
  refine ⟨(s.storeAtI (decimalDigits (s.reg x))).mem, exec_bcd_of_inMemory hin, ?_, ?_, ?_, fun a ha => ?_⟩
  · exact (congrArg BitVec.toNat (hread (k := 0) (by decide))).trans hhundreds
  · exact (congrArg BitVec.toNat (hread (k := 1) (by decide))).trans htens
  · exact (congrArg BitVec.toNat (hread (k := 2) (by decide))).trans hones
  · exact State.read_storeAtI_of_outside (by rw [length_decimalDigits]; omega)

/-- Settles O39: byte r of the X + 1 bytes stored is Vr, and they cover I to I + X and no other address. -/
theorem storeRegistersWritesV0ToVx : Obligations.StoreRegistersWritesV0ToVx := by
  refine fun x s hin => ⟨(s.storeAtI (s.regsTo x)).mem, exec_stm_of_inMemory hin, fun r hr => ?_, fun a ha => ?_⟩
  · have hlt : r.val < (s.regsTo x).length := by
      rw [State.length_regsTo]
      exact Nat.lt_succ_of_le hr
    rw [State.read_storeAtI hlt, State.getD_regsTo s hr]
  · exact State.read_storeAtI_of_outside (by rw [State.length_regsTo]; omega)

/-- Settles O40: the loop over the X + 1 bytes read at I writes V0 to VX. -/
theorem loadRegistersReadsV0ToVx : Obligations.LoadRegistersReadsV0ToVx :=
  fun x s hin => ⟨_, exec_ldm_of_inMemory hin, loadRegs_bytesAtI_get s x⟩

/-! ### A load after a store -/

/-- Settles O42: FX55 leaves Vr at I + r for each r up to X, and FX65 reads Vr from there. -/
theorem loadRestoresStoredRegisters : Obligations.LoadRestoresStoredRegisters := by
  intro x s t u hin hexec hmem hi
  obtain ⟨m, hstore, hstored, -⟩ := storeRegistersWritesV0ToVx x s hin
  cases hstore.symm.trans hexec
  obtain ⟨v, hload, hget⟩ := loadRegistersReadsV0ToVx x u (hi ▸ hin)
  refine ⟨v, hload, fun r => (hget r).trans (ite_congr rfl (fun hr => ?_) fun _ => rfl)⟩
  rw [hmem, hi]
  exact hstored r hr

/-- Settles O43: V0 to V2 are the three bytes FX33 stored, and the digits of a byte weighted by 100, 10 and 1 sum to
it. -/
theorem bcdDigitsMakeTheByte : Obligations.BcdDigitsMakeTheByte := by
  intro x s t hin hexec
  obtain ⟨m, hstore, hhundreds, htens, hones, -⟩ := bcdStoresTheDecimalDigits x s hin
  cases hstore.symm.trans hexec
  obtain ⟨v, hload, hget⟩ := loadRegistersReadsV0ToVx 2 { s with mem := m } hin
  have h0 : v[(0 : Reg)].toNat = (s.reg x).toNat / 100 := (congrArg BitVec.toNat (hget 0)).trans hhundreds
  have h1 : v[(1 : Reg)].toNat = (s.reg x).toNat / 10 % 10 := (congrArg BitVec.toNat (hget 1)).trans htens
  have h2 : v[(2 : Reg)].toNat = (s.reg x).toNat % 10 := (congrArg BitVec.toNat (hget 2)).trans hones
  have hbyte := (s.reg x).isLt
  refine ⟨_, hload, ?_⟩
  rw [State.reg_eq, State.reg_eq, State.reg_eq, h0, h1, h2]
  omega

end Sys2Proof.Machine
end

section
/-! The proofs of the family 45_display.md: the state a completed draw leaves (`State.drawn`), its pixels and its
flag, and from these the clear, the draw, the draw drawn twice and the clip at column 60. -/

namespace Sys2Proof.Machine

/-! ### The clear (R190) -/

/-- Settles O46: the executor and the host's clearDisplay put the blank framebuffer, and no other item changes. -/
theorem clearMakesEveryPixelFalse : Obligations.ClearMakesEveryPixelFalse :=
  ⟨fun _ hw => hw ▸ rfl, fun _ => ⟨⟨Framebuffer.blank, rfl, Framebuffer.pixel_blank⟩, rfl⟩⟩

/-! ### The sprite (R192) -/

/-- The sprite puts a pixel exactly by a bit that is 1, in one of its rows and columns and on the screen. -/
theorem State.spritePixel_iff (s : State) (x y : Reg) (n py px : Nat) : s.spritePixel x y n py px = true ↔
    ∃ r c, r < n ∧ c < 8 ∧ py = (s.reg y).toNat % 32 + r ∧ py < 32 ∧ px = (s.reg x).toNat % 64 + c ∧ px < 64 ∧
      (s.mem.read (s.i.toNat + r)).getLsbD (7 - c) = true := by
  simp only [State.spritePixel, Bool.and_eq_true, decide_eq_true_iff]
  constructor
  · rintro ⟨hin, hbit⟩
    exact ⟨py - (s.reg y).toNat % 32, px - (s.reg x).toNat % 64, by omega, by omega, by omega, by omega, by omega,
      by omega, hbit⟩
  · rintro ⟨r, c, hr, hc, rfl, hpy, rfl, hpx, hbit⟩
    rw [Nat.add_sub_cancel_left, Nat.add_sub_cancel_left]
    exact ⟨by omega, hbit⟩

/-- A sprite is fixed by memory, I and the two registers of its origin. -/
theorem State.spritePixel_congr {s u : State} {x y : Reg} (hmem : u.mem = s.mem) (hi : u.i = s.i)
    (hx : u.reg x = s.reg x) (hy : u.reg y = s.reg y) (n : Nat) : u.spritePixel x y n = s.spritePixel x y n := by
  unfold State.spritePixel
  rw [hmem, hi, hx, hy]

theorem State.spriteInMemory_congr {s u : State} {y : Reg} (hi : u.i = s.i) (hy : u.reg y = s.reg y) (n : Nat) :
    u.spriteInMemory y n = s.spriteInMemory y n := by
  rw [Bool.eq_iff_iff, State.spriteInMemory_iff, State.spriteInMemory_iff, hi, hy]

/-! ### The state a completed draw leaves (R191) -/

/-- What DXYN leaves when every byte it reads lies in memory. -/
def State.drawn (s : State) (x y : Reg) (n : Nibble) : State :=
  { s.setReg vf (flagByte (s.sprite x y n.toNat).collision) with fb := (s.sprite x y n.toNat).fb }

theorem flagByte_eq_one_iff (b : Bool) : flagByte b = 1 ↔ b = true := by cases b <;> decide

theorem flagByte_eq_zero_iff (b : Bool) : flagByte b = 0 ↔ ¬b = true := by cases b <;> decide

section
variable (s : State) (x y : Reg) (n : Nibble)

@[simp] theorem State.drawn_mem : (s.drawn x y n).mem = s.mem := rfl
@[simp] theorem State.drawn_i : (s.drawn x y n).i = s.i := rfl
@[simp] theorem State.drawn_fault : (s.drawn x y n).fault = s.fault := rfl

theorem State.pixel_drawn (py px : Nat) :
    (s.drawn x y n).fb.pixel py px = (s.fb.pixel py px ^^ s.spritePixel x y n.toNat py px) :=
  (s.sprite_draws x y n.toNat).pixel py px

/-- A draw changes exactly the pixels its sprite puts (R193 (c)). -/
theorem State.pixel_drawn_ne_iff (py px : Nat) :
    (s.drawn x y n).fb.pixel py px ≠ s.fb.pixel py px ↔ s.spritePixel x y n.toNat py px = true := by
  rw [State.pixel_drawn]
  cases s.fb.pixel py px <;> cases s.spritePixel x y n.toNat py px <;> decide

theorem State.reg_drawn_of_ne {r : Reg} (hr : r ≠ vf) : (s.drawn x y n).reg r = s.reg r :=
  (s.reg_setReg vf r _).trans (if_neg hr)

theorem State.reg_vf_drawn : (s.drawn x y n).reg vf = flagByte (s.sprite x y n.toNat).collision :=
  (s.reg_setReg vf vf _).trans (if_pos rfl)

/-- The draw starts with no collision seen, so one at its end is a 1 bit on a pixel that was true. -/
theorem State.sprite_collision_iff : (s.sprite x y n.toNat).collision = true ↔
    ∃ py px, s.spritePixel x y n.toNat py px = true ∧ s.fb.pixel py px = true :=
  (s.sprite_draws x y n.toNat).collision.trans (or_iff_right Bool.false_ne_true)

theorem State.reg_vf_drawn_eq_one_iff : (s.drawn x y n).reg vf = 1 ↔
    ∃ py px, s.spritePixel x y n.toNat py px = true ∧ s.fb.pixel py px = true := by
  rw [State.reg_vf_drawn, flagByte_eq_one_iff, State.sprite_collision_iff]

theorem State.reg_vf_drawn_eq_zero_iff : (s.drawn x y n).reg vf = 0 ↔
    ¬∃ py px, s.spritePixel x y n.toNat py px = true ∧ s.fb.pixel py px = true := by
  rw [State.reg_vf_drawn, flagByte_eq_zero_iff, State.sprite_collision_iff]

end

/-! ### The draw (R191, R237) -/

theorem exec_drw_of_spriteInMemory {s : State} {y : Reg} {n : Nibble} (h : s.spriteInMemory y n.toNat = true)
    (x : Reg) : exec (.drw x y n) s = .next (s.drawn x y n) :=
  if_pos h

/-- DXYN completes when all it reads lies in memory, and raises otherwise. -/
theorem exec_drw_cases {s t : State} {x y : Reg} {n : Nibble} (h : exec (.drw x y n) s = .next t) :
    (s.spriteInMemory y n.toNat = true ∧ t = s.drawn x y n) ∨ t = s.raise .memOutOfRange := by
  by_cases hin : s.spriteInMemory y n.toNat = true
  · cases (exec_drw_of_spriteInMemory hin x).symm.trans h
    exact .inl ⟨hin, rfl⟩
  · cases (if_neg hin).symm.trans h
    exact .inr rfl

/-- Settles O47: the premise is the range check, and the state it lets through has the sprite's pixels inverted and the
collision in VF. -/
theorem drawTogglesExactlyTheSpriteBits : Obligations.DrawTogglesExactlyTheSpriteBits := by
  intro x y n s hin
  refine ⟨(s.drawn x y n).fb, (s.drawn x y n).v, exec_drw_of_spriteInMemory ((s.spriteInMemory_iff y _).mpr hin) x,
    s.pixel_drawn x y n, (s.reg_vf_drawn_eq_one_iff x y n).mpr, fun hclear => ?_,
    fun r hr => s.reg_drawn_of_ne x y n hr⟩
  refine (s.reg_vf_drawn_eq_zero_iff x y n).mpr ?_
  rintro ⟨py, px, hon, hset⟩
  exact Bool.false_ne_true ((hclear py px hon).symm.trans hset)

/-- A draw of no rows is the reset of the flag at the start of every draw and nothing more (R194). -/
theorem State.drawn_of_no_rows (s : State) (x y : Reg) : s.drawn x y 0 = s.setReg vf 0 := rfl

/-- Settles O48: with no rows to read the range check passes for every I. -/
theorem drawOfNoRowsClearsTheFlag : Obligations.DrawOfNoRowsClearsTheFlag := by
  intro x y s
  have hin : s.spriteInMemory y (0 : Nibble).toNat = true := (s.spriteInMemory_iff y 0).mpr (.inl rfl)
  have hexec : exec (.drw x y 0) s = .next (s.setReg vf 0) :=
    (exec_drw_of_spriteInMemory hin x).trans (congrArg _ (s.drawn_of_no_rows x y))
  exact ⟨s.v.set vf 0, hexec, fun r => Registers.get_set s.v vf r 0⟩

/-! ### The draw twice, and the clip (R193) -/

/-- A sprite bit on a pixel that is true after the first draw is a pixel that draw turned from false to true. -/
theorem State.spritePixel_and_pixel_drawn_iff (s : State) (x y : Reg) (n : Nibble) (py px : Nat) :
    (s.spritePixel x y n.toNat py px = true ∧ (s.drawn x y n).fb.pixel py px = true) ↔
      (s.fb.pixel py px = false ∧ (s.drawn x y n).fb.pixel py px = true) := by
  rw [State.pixel_drawn]
  cases s.fb.pixel py px <;> cases s.spritePixel x y n.toNat py px <;> decide

/-- Settles O49: the second draw has the first one's sprite, since the first writes no register but VF, and XOR with the
same bits gives the framebuffer back. -/
theorem drawingTwiceRestoresTheScreen : Obligations.DrawingTwiceRestoresTheScreen := by
  intro x y n s t u hx hy _ hexec ht hmem hi hux huy hfb hu
  obtain ⟨hin, rfl⟩ | rfl := exec_drw_cases hexec
  case inr => cases ht
  have hi' : u.i = s.i := hi.trans (s.drawn_i x y n)
  have hux' : u.reg x = s.reg x := hux.trans (s.reg_drawn_of_ne x y n hx)
  have huy' : u.reg y = s.reg y := huy.trans (s.reg_drawn_of_ne x y n hy)
  have huin : u.spriteInMemory y n.toNat = true := (State.spriteInMemory_congr hi' huy' _).trans hin
  have hsprite := State.spritePixel_congr (hmem.trans (s.drawn_mem x y n)) hi' hux' huy' n.toNat
  have hcollides : (∃ py px, u.spritePixel x y n.toNat py px = true ∧ u.fb.pixel py px = true) ↔
      ∃ py px, s.fb.pixel py px = false ∧ (s.drawn x y n).fb.pixel py px = true := by
    simp only [hsprite, hfb, State.spritePixel_and_pixel_drawn_iff]
  refine ⟨u.drawn x y n, exec_drw_of_spriteInMemory huin x, (u.drawn_fault x y n).trans hu,
    Framebuffer.eq_of_pixel fun py px _ _ => ?_, (u.reg_vf_drawn_eq_one_iff x y n).trans hcollides,
    (u.reg_vf_drawn_eq_zero_iff x y n).trans (not_congr hcollides)⟩
  rw [State.pixel_drawn, hsprite, hfb, State.pixel_drawn, Bool.xor_assoc, Bool.xor_self, Bool.xor_false]

/-- Settles O50: the pixels that change are the sprite's, and of the columns 60 + c only those with c < 4 are on the
screen. -/
theorem drawAtColumn60DoesNotWrap : Obligations.DrawAtColumn60DoesNotWrap := by
  intro x y n s t hx hexec
  obtain ⟨-, rfl⟩ | rfl := exec_drw_cases hexec
  · simp only [State.pixel_drawn_ne_iff, State.spritePixel_iff, hx]
    constructor
    · rintro py px ⟨r, c, hr, -, hpy, hpy32, hpx, hpx64, hbit⟩
      exact ⟨r, c, hr, by omega, hpy, hpy32, hpx, hbit⟩
    · intro _ r c hr hc hrow hbit
      exact ⟨r, c, hr, by omega, rfl, hrow, rfl, by omega, hbit⟩
  · exact ⟨fun _ _ hne => absurd rfl hne, fun hfault => nomatch hfault⟩

end Sys2Proof.Machine
end

section
/-! The proofs of the family 46_timers_keys.md: the words of FX07, FX0A, FX15 and FX18, the two branches of the key
wait, and its whole step while no key is pressed. -/

namespace Sys2Proof

/-! ### The words whose NN names the instruction (R94, R99) -/

/-- A word the mask 0xF0FF matches decodes as the word of the same class and NN with its X for operand. -/
theorem decode_of_and_F0FF {w p : Word} {i : Reg → Instr} (h : w &&& 0xF0FF#16 = p)
    (hi : ∀ x, decode (formRegByte (opClass p) x (fieldNN p)) = .ok (i x)) : decode w = .ok (i (fieldX w)) := by
  obtain ⟨hc, hnn⟩ := fields_of_and_F0FF h
  rw [← hi, ← hc, ← hnn, formRegByte_fields]

end Sys2Proof

namespace Sys2Proof.Machine

/-! ### The two branches of the key wait (R203) -/

section
variable {s : State}

theorem exec_wkey_of_lowest {k : Reg} (x : Reg) (hk : s.key[k] = true)
    (hlow : ∀ j : Reg, j < k → s.key[j] = false) :
    exec (.wkey x) s = .next (s.setReg x (BitVec.ofNat 8 k.val)) := by
  rw [exec, execWkey, (s.lowestKey_eq_some_iff k.val).mpr ⟨k, rfl, hk, hlow⟩]

theorem exec_wkey_of_no_key (x : Reg) (hnone : ∀ k : Reg, s.key[k] = false) :
    exec (.wkey x) s = .next s.rewind := by
  rw [exec, execWkey, s.lowestKey_eq_none_iff.mpr hnone]

end

/-- The index of a key fits in a register. -/
theorem toNat_byte_of_reg (k : Reg) : (BitVec.ofNat 8 k.val).toNat = k.val :=
  Nat.mod_eq_of_lt (Nat.lt_trans k.isLt (by decide))

/-- The rewind takes back the advance, so pc is the address of the FX0A again (R123 (c)). -/
@[simp] theorem State.rewind_advance (s : State) : s.advance.rewind = s := by
  have hpc : s.pc + 2 - 2 = s.pc := BitVec.add_sub_cancel s.pc 2
  rw [State.rewind, State.advance, hpc]

/-! ### The whole step of the key wait (R129, R203) -/

/-- With no key pressed FX0A completes on the state it began in, so its step is the tick alone. -/
theorem step_of_selects_wkey_of_no_key {s : State} {x : Reg} (hs : s.Running) (hi : s.Selects (.wkey x))
    (hnone : ∀ k : Reg, s.key[k] = false) : step s = .next s.tick := by
  have hexec : exec (.wkey x) s.advance = .next s := by
    rw [exec_wkey_of_no_key (s := s.advance) x hnone, State.rewind_advance]
  exact step_of_completes hs hi hexec hs

/-- Settles O53: the step is the tick alone, which writes the two timers. -/
theorem keyWaitSpinsInPlace : Obligations.KeyWaitSpinsInPlace := by
  intro x s hs hi hnone
  exact ⟨countDown s.dt, countDown s.st, step_of_selects_wkey_of_no_key hs hi hnone, toNat_countDown _,
    toNat_countDown _⟩

/-! ### The executor on the four instructions (R200 to R203) -/

/-- Settles O51: the masks fix class F with NN, and each instruction writes the one register or timer it names. -/
theorem timerTransfers : Obligations.TimerTransfers := by
  refine ⟨fun w => ⟨fun hw => ?_, fun hw => ?_, fun hw => ?_⟩, fun x s => ⟨?_, rfl, rfl⟩⟩
  · exact decode_of_and_F0FF hw (by decide)
  · exact decode_of_and_F0FF hw (by decide)
  · exact decode_of_and_F0FF hw (by decide)
  · exact ⟨s.v.set x s.dt, rfl, fun r => Registers.get_set s.v x r s.dt⟩

/-- Settles O52: the mask fixes class F with NN; the least pressed index goes to X, and with no key pc is rewound. -/
theorem keyWaitTakesTheLowestKey : Obligations.KeyWaitTakesTheLowestKey := by
  refine ⟨fun w hw => decode_of_and_F0FF hw (by decide), fun x s => ⟨fun k hk hlow => ?_, exec_wkey_of_no_key x⟩⟩
  refine ⟨s.v.set x (BitVec.ofNat 8 k.val), exec_wkey_of_lowest x hk hlow, ?_, fun r hr => ?_⟩
  · rw [Registers.get_set_same, toNat_byte_of_reg]
  · exact Registers.get_set_of_ne s.v _ hr

end Sys2Proof.Machine
end

section
/-! The proofs of the family 50_host_interface.md: what each host operation leaves, the two branches of load, and
the invariant along every list of events. -/

namespace Sys2Proof.Machine

/-! ### load (R212, R244) -/

section
variable {s : State} {bytes : List Byte}

/-- From ENTRY there are 0x1000 - 0x200 = 3584 addresses, so a program of that many bytes still fits. -/
theorem State.load_of_fits (h : bytes.length ≤ 3584) :
    s.load bytes = some { s with mem := s.mem.writeBytes Config.entry bytes } :=
  if_pos (by rw [Config.entry, Config.memSize]; omega)

theorem State.load_of_too_long (h : 3584 < bytes.length) : s.load bytes = none :=
  if_neg (by rw [Config.entry, Config.memSize]; omega)

theorem applyEvent_load_of_fits (h : bytes.length ≤ 3584) :
    applyEvent (.load bytes) s = .next { s with mem := s.mem.writeBytes Config.entry bytes } := by
  rw [applyEvent, State.load_of_fits h, Option.getD_some]

/-- A failed load leaves the machine as it was. -/
theorem applyEvent_load_of_too_long (h : 3584 < bytes.length) : applyEvent (.load bytes) s = .next s := by
  rw [applyEvent, State.load_of_too_long h, Option.getD_none]

end

/-- Settles O55: a program that fits is read back through `Memory.read_writeBytes`, and a longer one is refused. -/
theorem loadCopiesTheProgram : Obligations.LoadCopiesTheProgram := by
  refine fun bytes s => ⟨fun hfits => ?_, fun hlong =>
    ⟨State.load_of_too_long hlong, applyEvent_load_of_too_long hlong⟩⟩
  refine ⟨s.mem.writeBytes 0x200 bytes, State.load_of_fits hfits, applyEvent_load_of_fits hfits,
    fun k hk => ?_, fun a ha => Memory.read_writeBytes_of_outside ha⟩
  rw [Memory.read_writeBytes, if_pos (by omega), Nat.add_sub_cancel_left, List.getD_eq_getElem _ _ hk]

/-! ### The keys and the display (R213, R214) -/

theorem getElem_set_key (key : Vector Bool 16) (k j : Reg) (b : Bool) :
    (key.set k b)[j] = if j = k then b else key[j] := by
  have hset := Vector.getElem_set (xs := key) (x := b) (i := k.val) (j := j.val) k.isLt j.isLt
  simpa only [Fin.getElem_fin, ← Fin.ext_iff, eq_comm (a := k)] using hset

theorem getElem_noKeys (j : Reg) : noKeys[j] = false := Vector.getElem_replicate ..

/-- Settles O56: each operation replaces one item of the state, read by the lemma about its new value. -/
theorem keyAndDisplayOperations : Obligations.KeyAndDisplayOperations := fun s =>
  ⟨fun k b => ⟨s.key.set k b, rfl, fun j => getElem_set_key s.key k j b⟩,
    ⟨noKeys, rfl, getElem_noKeys⟩, ⟨Framebuffer.blank, rfl, Framebuffer.pixel_blank⟩⟩

/-! ### reset (R211) -/

/-- Settles O57: the event is the host's reset by definition, whatever the state and its latch. -/
theorem resetGivesTheConstructionState : Obligations.ResetGivesTheConstructionState := fun _ => rfl

/-! ### The invariant along an execution (R37, R219) -/

/-- The construction state meets the invariant, which does not speak of the draw counter. -/
theorem State.Inv.hostReset {s : State} (h : s.Inv) : s.hostReset.Inv :=
  (State.resetWith_inv h.params).congr rfl rfl rfl rfl

/-- A program that fits is stored inside memory. -/
theorem State.Inv.load {s : State} (h : s.Inv) {bytes : List Byte} (hfits : bytes.length ≤ 3584) :
    State.Inv { s with mem := s.mem.writeBytes Config.entry bytes } :=
  { h with memory := Memory.wf_writeBytes (by rw [Config.entry, Config.memSize]; omega) h.memory }

/-- One event, a step or a host operation, keeps the invariant. -/
theorem applyEvent_keeps_inv {e : HostEvent} {s t : State} (hs : s.Inv) (h : applyEvent e s = .next t) : t.Inv := by
  cases e with
  | step => exact everyStepKeepsTheInvariant s t hs h
  | reset => cases h; exact hs.hostReset
  | load bytes =>
    by_cases hfits : bytes.length ≤ 3584
    · rw [applyEvent_load_of_fits hfits] at h
      cases h; exact hs.load hfits
    · rw [applyEvent_load_of_too_long (Nat.lt_of_not_le hfits)] at h
      cases h; exact hs
  | setKey | clearKeys | clearDisplay => cases h; exact hs.congr rfl rfl rfl rfl

/-- An execution that ends in a state passed through the state its first event left. -/
theorem runEvents_cons_eq_next {e : HostEvent} {es : List HostEvent} {s t : State}
    (h : runEvents (e :: es) s = .next t) : ∃ u, applyEvent e s = .next u ∧ runEvents es u = .next t := by
  rw [runEvents] at h
  cases he : applyEvent e s with
  | next u => rw [he] at h; exact ⟨u, rfl, h⟩
  | fault f => rw [he] at h; cases h
  | refused r => rw [he] at h; cases h

/-- Settles O19, by induction on the events, each of which keeps the invariant. -/
theorem everyExecutionKeepsTheInvariant : Obligations.EveryExecutionKeepsTheInvariant := by
  intro es
  induction es with
  | nil => intro s t hs h; cases h; exact hs
  | cons e es ih =>
    intro s t hs h
    obtain ⟨u, he, hrest⟩ := runEvents_cons_eq_next h
    exact ih u t (applyEvent_keeps_inv hs he) hrest

end Sys2Proof.Machine
end

section
/-! The proofs of the family 60_exceptions.md, and of the decoder's round trips: the fault of a step is the one whose
condition the table of R231 gives, and `encode` and `decode` undo each other. -/

namespace Sys2Proof

/-! ### Decoding the word of an instruction (R93, R94) -/

/-- The encoder's word of a well-formed instruction decodes to it: the class and the secondary field of the word's form
select its arm, and the other fields are its operands. BXNN's X is read from NNN. -/
theorem decode_encode {i : Instr} (h : i.wellFormed = true) : decode (encode i) = .ok i := by
  cases i with
  | cls | ret => rfl
  | jp | call | ldx =>
    simp only [encode, decode, BitVec.ofNat_eq_ofNat, opClass_formAddr, fieldNNN_formAddr]
  | jpx x nnn =>
    have hx : x = Instr.topNibble nnn := of_decide_eq_true h
    simp only [encode, decode, BitVec.ofNat_eq_ofNat, opClass_formAddr, fieldX_formAddr, fieldNNN_formAddr, hx]
  | sei | snei | ldi | addi | rnd =>
    simp only [encode, decode, BitVec.ofNat_eq_ofNat, opClass_formRegByte, fieldX_formRegByte, fieldNN_formRegByte]
  | ser | sner | drw =>
    simp only [encode, decode, BitVec.ofNat_eq_ofNat, opClass_formRegReg, fieldX_formRegReg, fieldY_formRegReg,
      fieldN_formRegReg]
  | mov | or | and | xor | add | sub | shr | subn | shl =>
    simp only [encode, decode_of_class8, decodeFamily8, BitVec.ofNat_eq_ofNat, opClass_formRegReg, fieldX_formRegReg,
      fieldY_formRegReg, fieldN_formRegReg]
  | skp | sknp =>
    simp only [encode, decode_of_classE, decodeFamilyE, BitVec.ofNat_eq_ofNat, opClass_formRegByte,
      fieldX_formRegByte, fieldNN_formRegByte]
  | gdt | wkey | sdt | sst | addx | font | bcd | stm | ldm =>
    simp only [encode, decode_of_classF, decodeFamilyF, BitVec.ofNat_eq_ofNat, opClass_formRegByte,
      fieldX_formRegByte, fieldNN_formRegByte]

/-- Settles O3, by the form of the encoded word. -/
theorem decodeOfEncodeIsTheInstruction : Obligations.DecodeOfEncodeIsTheInstruction := fun _ => decode_encode

/-! ### Encoding what a word decodes to (R105) -/

/-- Only BXNN has a condition, and its two fields are read from the same bits. -/
theorem wellFormed_of_decode {w : Word} {i : Instr} (h : decode w = .ok i) : i.wellFormed = true := by
  cases i with
  | jpx x nnn =>
    have hc : opClass w = 0xB#4 := by
      rw [← encode_of_decode h]
      exact opClass_formAddr ..
    cases (decode_of_classB hc).symm.trans h
    exact decide_eq_true (topNibble_fieldNNN w).symm
  | _ => rfl

/-- Settles O4: the family's fields make up the word again, and decoding builds well-formed instructions only. -/
theorem encodeOfDecodeIsTheWord : Obligations.EncodeOfDecodeIsTheWord :=
  fun _ _ h => ⟨wellFormed_of_decode h, encode_of_decode h⟩

/-- Settles O1: the decoder evaluated on 25 fixed words. -/
theorem decodeReadsTheSpecsWords : Obligations.DecodeReadsTheSpecsWords := by
  unfold Obligations.DecodeReadsTheSpecsWords
  decide

end Sys2Proof

namespace Sys2Proof.Machine

/-! ### The fetch (R234) -/

/-- Settles O10: `State.raise` sets the latch alone. -/
theorem fetchOutsideMemoryRaises : Obligations.FetchOutsideMemoryRaises := fun _ hs hpc => step_of_fetch_outside hs hpc

/-! ### The table of faults (R231) -/

/-- Where a condition of the table holds, the step raises its fault (R234 to R238). -/
theorem step_of_faultCondition {s : State} {f : Fault} (hs : s.Running) (h : s.faultCondition f) :
    step s = .next (s.raise f) := by
  cases f with
  | fetchOutOfRange => exact step_of_fetch_outside hs h
  | stackUnderflow =>
    obtain ⟨hi, hempty⟩ := h
    exact step_of_raises hs hi (exec_ret_of_empty (s := s.advance) hempty) rfl
  | stackOverflow =>
    obtain ⟨nnn, hi, hfull⟩ := h
    exact step_of_raises hs hi (exec_call_of_full (s := s.advance) nnn hfull.ge) rfl
  | memOutOfRange =>
    obtain ⟨x, hi, hout⟩ | ⟨x, hi, hout⟩ | ⟨x, hi, hout⟩ | ⟨x, y, n, hi, hn, hout⟩ := h
    · exact step_of_raises hs hi (exec_bcd_of_outside (s := s.advance) hout) rfl
    · exact step_of_raises hs hi (exec_stm_of_outside (s := s.advance) hout) rfl
    · exact step_of_raises hs hi (exec_ldm_of_outside (s := s.advance) hout) rfl
    · exact step_of_raises hs hi (exec_drw_of_outside (s := s.advance) hn hout) rfl
  | keyIndexOutOfRange =>
    obtain ⟨x, hi | hi, hkey⟩ := h
    · exact step_of_raises hs hi (exec_skp_of_no_key (s := s.advance) hkey) rfl
    · exact step_of_raises hs hi (exec_sknp_of_no_key (s := s.advance) hkey) rfl

/-- A selected instruction meets a condition of the table, or its meaning leaves the latch clear. By the bound on the
stack a full one holds exactly STACK_DEPTH entries (R37 (d)). -/
theorem faultCondition_or_exec_completes {s : State} {i : Instr} (hs : s.Running)
    (hdepth : s.stack.length ≤ s.params.stackDepth) (hi : s.Selects i) :
    (∃ f, s.faultCondition f) ∨ ∃ t, exec i s.advance = .next t ∧ t.Running := by
  cases i with
  | ret =>
    obtain hempty | ⟨rest, a, hstack⟩ := s.stack.eq_nil_or_concat'
    · exact .inl ⟨.stackUnderflow, hi, hempty⟩
    · exact .inr ⟨_, exec_ret_of_top (State.top_append (s := s.advance) hstack).1, hs⟩
  | call nnn =>
    obtain hroom | hfull := hdepth.lt_or_eq
    · exact .inr ⟨_, exec_call_of_room (s := s.advance) nnn hroom, hs⟩
    · exact .inl ⟨.stackOverflow, nnn, hi, hfull⟩
  | bcd x =>
    obtain hin | hout := le_or_gt (s.i.toNat + 2) 0xFFF
    · exact .inr ⟨_, exec_bcd_of_inMemory (s := s.advance) hin, hs⟩
    · exact .inl ⟨.memOutOfRange, .inl ⟨x, hi, hout⟩⟩
  | stm x =>
    obtain hin | hout := le_or_gt (s.i.toNat + x.val) 0xFFF
    · exact .inr ⟨_, exec_stm_of_inMemory (s := s.advance) hin, hs⟩
    · exact .inl ⟨.memOutOfRange, .inr (.inl ⟨x, hi, hout⟩)⟩
  | ldm x =>
    obtain hin | hout := le_or_gt (s.i.toNat + x.val) 0xFFF
    · exact .inr ⟨_, exec_ldm_of_inMemory (s := s.advance) hin, hs⟩
    · exact .inl ⟨.memOutOfRange, .inr (.inr (.inl ⟨x, hi, hout⟩))⟩
  | drw x y n =>
    by_cases hin : s.advance.spriteInMemory y n.toNat = true
    · exact .inr ⟨_, exec_drw_of_spriteInMemory hin x, hs⟩
    · rw [State.spriteInMemory_iff, not_or, Nat.not_le] at hin
      obtain ⟨hn, hout⟩ := hin
      exact .inl ⟨.memOutOfRange, .inr (.inr (.inr ⟨x, y, n, hi, Nat.pos_of_ne_zero hn, hout⟩))⟩
  | skp x =>
    obtain hkey | hnone := Nat.lt_or_ge (s.reg x).toNat 16
    · exact .inr ⟨_, exec_skp_of_key (s := s.advance) (k := ⟨_, hkey⟩) rfl, (State.skipIf_fault ..).trans hs⟩
    · exact .inl ⟨.keyIndexOutOfRange, x, .inl hi, hnone⟩
  | sknp x =>
    obtain hkey | hnone := Nat.lt_or_ge (s.reg x).toNat 16
    · exact .inr ⟨_, exec_sknp_of_key (s := s.advance) (k := ⟨_, hkey⟩) rfl, (State.skipIf_fault ..).trans hs⟩
    · exact .inl ⟨.keyIndexOutOfRange, x, .inr hi, hnone⟩
  | sei | snei | ser | sner => exact .inr ⟨_, rfl, (State.skipIf_fault ..).trans hs⟩
  | wkey x =>
    rw [exec, execWkey]
    cases s.advance.lowestKey with
    | none => exact .inr ⟨_, rfl, hs⟩
    | some k => exact .inr ⟨_, rfl, hs⟩
  | _ => exact .inr ⟨_, rfl, hs⟩

/-- The same of the whole step: only a condition of the table keeps it from completing. -/
theorem faultCondition_or_step_completes {s t : State} (hs : s.Running)
    (hdepth : s.stack.length ≤ s.params.stackDepth) (hstep : step s = .next t) :
    (∃ f, s.faultCondition f) ∨ t.Running := by
  obtain ⟨f, hf, rfl⟩ | ⟨-, hpc, -⟩ | ⟨_, _, -, -, -, rfl⟩ | ⟨i, done, -, hi, hexec, rfl⟩ :=
    step_cases hstep
  · exact .inr hs
  · exact .inl ⟨.fetchOutOfRange, hpc⟩
  · exact .inr hs
  · refine (faultCondition_or_exec_completes hs hdepth hi).imp_right ?_
    rintro ⟨u, hu, hrun⟩
    obtain rfl : done = u := Host.Outcome.next.inj (hexec.symm.trans hu)
    exact (State.settle_fault s done).trans hrun

/-- Settles O12: a fault needs a condition of the table, and a condition fixes the fault. -/
theorem faultsExactlyWhenTheTableSays : Obligations.FaultsExactlyWhenTheTableSays := by
  intro s t f hs hdepth hstep
  constructor
  · intro ht
    obtain ⟨g, hg⟩ | hrun := faultCondition_or_step_completes hs hdepth hstep
    · cases (step_of_faultCondition hs hg).symm.trans hstep
      cases ht
      exact hg
    · cases hrun.symm.trans ht
  · intro hf
    cases (step_of_faultCondition hs hf).symm.trans hstep
    rfl

end Sys2Proof.Machine
end
